-- ==== Sys2Proof/Word.lean ====
section
/-! DEFINITION. The words of the block: bytes, nibbles, line levels, and the four-fold structure that the keypad's
rows and columns have (spec/00_scope.md rules R8 and R9; every quantity is unsigned). -/

namespace Sys2Proof

/-- A byte: bits 7 (most significant) down to 0 (R9). -/
abbrev Byte := BitVec 8

/-- A 4-bit value: a key value, a keymap entry, a column-address nibble (R22, R93). -/
abbrev Nibble := BitVec 4

/-- The level of one line: low is the spec's 0, high its 1 (R8). -/
inductive Level where
  | low
  | high
deriving DecidableEq, Repr, Inhabited

/-- The spec writes a level as the bit 0 or 1 when it packs levels into a number (R94). -/
def Level.bit : Level → Nat
  | .low => 0
  | .high => 1

/-- The keypad has four rows and four columns; a row number or a column number (R5 KEY_ROWS, KEY_COLS). -/
abbrev Line4 := Fin 4

/-- Four like things, numbered 0 to 3. -/
structure Quad (α : Type) where
  q0 : α
  q1 : α
  q2 : α
  q3 : α
deriving DecidableEq, Repr, Inhabited

/-- Entry `i` of a quad. -/
def Quad.get {α : Type} (q : Quad α) (i : Line4) : α :=
  match i with
  | 0 => q.q0
  | 1 => q.q1
  | 2 => q.q2
  | 3 => q.q3

/-- The quad with entry `i` replaced. -/
def Quad.set {α : Type} (q : Quad α) (i : Line4) (v : α) : Quad α :=
  match i with
  | 0 => { q with q0 := v }
  | 1 => { q with q1 := v }
  | 2 => { q with q2 := v }
  | 3 => { q with q3 := v }

/-- The quad with all four entries `v`. -/
def Quad.all {α : Type} (v : α) : Quad α := ⟨v, v, v, v⟩

/-- The 4 by 4 keymap, indexed `[resolved row][scanned column]` (R22). -/
abbrev Keymap := Quad (Quad Nibble)

/-- `KEYMAP[r][c]`: the first index is the row (R114). -/
def Keymap.entry (k : Keymap) (r c : Line4) : Nibble := (Quad.get k r).get c

/-- The number after `i` among `n`, if there is one: the step of a counted loop. -/
def nextOf {n : Nat} (i : Fin n) : Option (Fin n) :=
  if h : i.val + 1 < n then some ⟨i.val + 1, h⟩ else none

end Sys2Proof
end

