-- ==== Sys2Proof/Syntax.lean ====
section
/-! DEFINITION. The instructions: one constructor for each row of spec/opcode_table.json. The first seven are the host
descriptors (spec/30_encoding.md rules R81, R82, R87), the eighth is the response (R88), the last eleven are the panel
transactions (R91, R92, R93). -/

namespace Sys2Proof

/-- The instruction set (one constructor per row of the opcode table). -/
inductive Instr where
  /-- `INIT`, descriptor `00` (R150). -/
  | init
  /-- `CLEAR`, descriptor `01` (R195). -/
  | clear
  /-- `XOR X, Y, [S0 ... SN-1]`, descriptor `02 X Y N S0 ... SN-1` (R190); `N` is the number of sprite bytes. -/
  | xor (x y : Byte) (sprite : List Byte)
  /-- `IS_ANY_KEY_PRESSED`, descriptor `03` (R115). -/
  | isAnyKeyPressed
  /-- `READ_KEY`, descriptor `04` (R118). -/
  | readKey
  /-- `SET_KEYMAP T`, descriptor `05 K0 ... K7` (R122). -/
  | setKeymap (table : Keymap)
  /-- A reserved opcode byte, `06` to `FF` (R87). -/
  | reserved (opcode : Byte)
  /-- The two-byte response that ends an operation: CAT, STATUS, VALUE (R88). -/
  | response (cat : BitVec 2) (status : Nibble) (value : BitVec 5)
  /-- "set display start line = 0", WP (R92). -/
  | panelSetStartLine
  /-- "set contrast = 0x80", WP (R92). -/
  | panelSetContrast
  /-- "select vertical addressing mode", WS (R92). -/
  | panelVerticalAddressing
  /-- "set oscillator frequency setting = 0x41", WP (R92). -/
  | panelSetOsc
  /-- "set pre-charge period = 0x22", WP (R92). -/
  | panelSetPrecharge
  /-- "set VCOM deselect level = 0x35", WP (R92). -/
  | panelSetVcom
  /-- "set display offset = 0x60", WP (R92). -/
  | panelSetOffset
  /-- "power the display on", WS (R92). -/
  | panelDisplayOn
  /-- Column address, low nibble, WS (R93). -/
  | panelColumnLow (n : Nibble)
  /-- Column address, high nibble, WS (R93). -/
  | panelColumnHigh (n : Nibble)
  /-- Pixel data, WD: the sixteen payload bytes, byte 0 first (R144). -/
  | panelData (payload : List Byte)
deriving DecidableEq, Repr

/-- The error kinds a failing exchange or a reserved opcode gives (R8, R210, R211); their codes are in
Machine/Flags.lean. -/
inductive Kind where
  /-- a failed `PinWrite(COLc, v)` -/
  | pinWrite
  /-- a failed `PinRead(ROWr)` -/
  | pinRead
  /-- a failed `DelayUs(500)` -/
  | delay
  /-- a failed `BusWrite(bytes)` -/
  | busWrite
  /-- a failed `PinWrite(CS, v)` -/
  | chipSelect
  /-- a failed `PinWrite(DC, v)` -/
  | modeSelect
  /-- a failed `PinWrite(RST, v)` -/
  | resetLine
  /-- a reserved opcode byte -/
  | illegalOp
deriving DecidableEq, Repr

/-- The three encoded interfaces of the block (spec/30_encoding.md; the opcode table's column "interface"). The panel
wire carries the level of the mode-select line beside its bytes (R91). -/
inductive Interface where
  | hostDescriptor
  | hostResponse
  | panelWire (mode : Level)
deriving DecidableEq, Repr

/-- The interface an instruction is encoded on. -/
def Instr.interface : Instr → Interface
  | .init => .hostDescriptor
  | .clear => .hostDescriptor
  | .xor _ _ _ => .hostDescriptor
  | .isAnyKeyPressed => .hostDescriptor
  | .readKey => .hostDescriptor
  | .setKeymap _ => .hostDescriptor
  | .reserved _ => .hostDescriptor
  | .response _ _ _ => .hostResponse
  | .panelSetStartLine => .panelWire .low
  | .panelSetContrast => .panelWire .low
  | .panelVerticalAddressing => .panelWire .low
  | .panelSetOsc => .panelWire .low
  | .panelSetPrecharge => .panelWire .low
  | .panelSetVcom => .panelWire .low
  | .panelSetOffset => .panelWire .low
  | .panelDisplayOn => .panelWire .low
  | .panelColumnLow _ => .panelWire .low
  | .panelColumnHigh _ => .panelWire .low
  | .panelData _ => .panelWire .high

end Sys2Proof
end

