-- ==== Sys2Proof/Machine/Flags.lean ====
section
/-! DEFINITION. The block has no persistent flags (spec/10_state.md rule R27); what it computes in their place is the
STATUS, CAT and VALUE fields of the response (R26, R88, R211, R212) and the one-hot row decode (R113). -/

namespace Sys2Proof.Machine

/-- The `STATUS` code of an error kind (R211). -/
def statusOf : Kind → Nibble
  | .pinWrite => 0x1#4
  | .pinRead => 0x2#4
  | .delay => 0x3#4
  | .busWrite => 0x4#4
  | .chipSelect => 0x5#4
  | .modeSelect => 0x6#4
  | .resetLine => 0x7#4
  | .illegalOp => 0x8#4

/-- The `STATUS` code of success (R211). -/
def statusOk : Nibble := 0x0#4

/-- The codes the block produces are 0 to 8 (R211, U15). -/
def statusProduced (status : Nibble) : Bool := decide (status.toNat ≤ 8)

/-- `CAT` as a function of `STATUS`: 0b00 for 0, 0b01 "keypad failed" for 1 to 3, 0b10 "screen failed" for 4 to 7,
0b11 for 8 (R212). The codes 9 to 15 are never produced (R211) and are given the last category. -/
def categoryOf (status : Nibble) : BitVec 2 :=
  if status.toNat = 0 then 0b00#2
  else if status.toNat ≤ 3 then 0b01#2
  else if status.toNat ≤ 7 then 0b10#2
  else 0b11#2

/-- VALUE of an operation that returns nothing (R26). -/
def valueNone : BitVec 5 := 0#5

/-- `XOR_RESULT`, the constant VALUE of a successful XOR; it is no collision flag (R26, R27, R256). -/
def xorResult : BitVec 5 := 1#5

/-- VALUE of IS_ANY_KEY_PRESSED: bit 0 is 1 exactly when some row sample was 1 (R26, R115). -/
def valueAny (rows : BitVec 4) : BitVec 5 := if rows = 0b0000#4 then 0#5 else 1#5

/-- VALUE of READ_KEY: bit 4 is 1 and bits 3:0 are the key when one was resolved, else all five bits are 0 (R26). -/
def valueKey : Option Nibble → BitVec 5
  | none => 0#5
  | some k => 1#1 ++ k

/-- The four row samples as one value, row `r` at bit `r` (R94): the value with bit `r` set to a sample. -/
def rowsWith (rows : BitVec 4) (r : Line4) (v : Level) : BitVec 4 :=
  rows ||| BitVec.ofNat 4 (v.bit * 2 ^ r.val)

/-- `DecodeOneHot`: strict single-hot, every other pattern is no key (R113). -/
def decodeOneHot (rows : BitVec 4) : Option Line4 :=
  if rows = 0b0001#4 then some 0
  else if rows = 0b0010#4 then some 1
  else if rows = 0b0100#4 then some 2
  else if rows = 0b1000#4 then some 3
  else none

/-- Byte 0 of the response: CAT in bits 7:6, zero in bits 5:4, STATUS in bits 3:0 (R88). -/
def responseByte0 (cat : BitVec 2) (status : Nibble) : Byte := cat ++ 0b00#2 ++ status

/-- Byte 1 of the response: zero in bits 7:5, VALUE in bits 4:0 (R88). -/
def responseByte1 (value : BitVec 5) : Byte := 0b000#3 ++ value

end Sys2Proof.Machine
end

