-- ==== Sys2Proof/Config.lean ====
section
/-! DEFINITION. What the spec leaves OPEN (spec/00_scope.md rule R6, spec/93_implementation_defined.md U6, U8, U10, U11),
each an opaque constant with no body, so that a claim about the model is a claim about every value of it. -/

namespace Sys2Proof

/-- What the environment answers to one primitive exchange (R8): it fails, or it succeeds; `sample` is the level a
`PinRead` returns and is not looked at for the three other exchanges. -/
inductive Answer where
  | fails
  | succeeds (sample : Level)
deriving DecidableEq, Repr, Inhabited

/-- The operand latches of R25: the operation code, XOR's `X`, `Y`, `N` and sprite bytes, SET_KEYMAP's sixteen entries. -/
structure Operands where
  op : Byte
  x : Byte
  y : Byte
  n : Byte
  sprite : List Byte
  table : Keymap
deriving DecidableEq, Repr, Inhabited

/-- Command byte of "set display start line" (R92, OPEN). -/
opaque Config.cmdStartLine : Byte
/-- Command byte of "set contrast" (R92, OPEN). -/
opaque Config.cmdContrast : Byte
/-- Command byte of "select vertical addressing mode" (R92, OPEN). -/
opaque Config.cmdVerticalMode : Byte
/-- Command byte of "set oscillator frequency setting" (R92, OPEN). -/
opaque Config.cmdOsc : Byte
/-- Command byte of "set pre-charge period" (R92, OPEN). -/
opaque Config.cmdPrecharge : Byte
/-- Command byte of "set VCOM deselect level" (R92, OPEN). -/
opaque Config.cmdVcom : Byte
/-- Command byte of "set display offset" (R92, OPEN). -/
opaque Config.cmdOffset : Byte
/-- Command byte of "power the display on" (R92, OPEN). -/
opaque Config.cmdDisplayOn : Byte
/-- `ColLoCmd`: the command byte that carries the low nibble of a column address (R93, OPEN). -/
opaque Config.colLoCmd : Nibble → Byte
/-- `ColHiCmd`: the command byte that carries the high nibble of a column address (R93, OPEN). -/
opaque Config.colHiCmd : Nibble → Byte

/-- The environment's answer to exchange number `k` since reset, once the answers listed in the state are used up
(R8: decided by the environment, not by the block; assumption log 3). -/
opaque Config.envAnswer : Nat → Answer

/-- The level a latch holds after a failed `PinWrite`: either level (R24, U8; assumption log 4). -/
opaque Config.freeLevel : Nat → Level

/-- What the operand latches hold once an operation has ended: any value (R25, U10; assumption log 7). -/
opaque Config.freeOperands : Nat → Operands

/-- How many bytes of a failed bus write reached the panel: any number (R141 case c, U6); only the informative
reference panel reads it. -/
opaque Config.freeDelivered : Nat → Nat

end Sys2Proof
end

