-- ==== Sys2Proof/WellFormed.lean ====
section
/-! DEFINITION. Which instruction terms some encoding of the spec stands for (spec/30_encoding.md). -/

namespace Sys2Proof

open Sys2Proof.Machine (statusProduced categoryOf)

/-- The instruction is one that the spec's encodings can express and the block can produce: XOR carries at most 255
sprite bytes because `N` is one byte (R81, R86); a reserved opcode is 0x06 to 0xFF (R87); a response has the category
of its status, a status that is produced, and VALUE 0 on any error (R88, R212, R213); the high nibble of a column
address is 0 to 3 (R93); a pixel-data transaction carries sixteen bytes (R144). -/
def Instr.wellFormed : Instr → Bool
  | .init => true
  | .clear => true
  | .xor _ _ sprite => decide (sprite.length < 256)
  | .isAnyKeyPressed => true
  | .readKey => true
  | .setKeymap _ => true
  | .reserved opcode => decide (6 ≤ opcode.toNat)
  | .response cat status value =>
    statusProduced status && decide (cat = categoryOf status) && (decide (status = 0#4) || decide (value = 0#5))
  | .panelSetStartLine => true
  | .panelSetContrast => true
  | .panelVerticalAddressing => true
  | .panelSetOsc => true
  | .panelSetPrecharge => true
  | .panelSetVcom => true
  | .panelSetOffset => true
  | .panelDisplayOn => true
  | .panelColumnLow _ => true
  | .panelColumnHigh n => decide (n.toNat ≤ 3)
  | .panelData payload => decide (payload.length = 16)

end Sys2Proof
end

