-- ==== Sys2Proof/Decode.lean ====
section
/-! DEFINITION. Decoding, total on any bytes of any of the three interfaces, and after it the encoder, from the same
tables (spec/30_encoding.md rules R81, R82, R87, R88, R89, R91, R92, R93). -/

namespace Sys2Proof

/-- Why a byte sequence of the response interface or of the panel wire is no instruction. The host descriptor
interface rejects nothing: every first byte opens a descriptor (R82, R87). -/
inductive DecodeError where
  /-- a response bit that R88 gives as zero is set -/
  | responseBitSet
  /-- a command transaction whose bytes are none of R92's and R93's -/
  | unknownCommand
  /-- a pixel-data transaction that does not carry sixteen bytes (R144) -/
  | notSixteenBytes
deriving DecidableEq, Repr

/-- What decoding answers: an instruction and the bytes after it, the need of more bytes (R89), or a rejection. -/
inductive Decoded where
  | done (i : Instr) (rest : List Byte)
  | incomplete
  | rejected (e : DecodeError)
deriving DecidableEq, Repr

/-! The field values the encodings fix. -/

/-- The parameter of "set display start line" (R5 INIT_START_LINE). -/
def initStartLine : Byte := 0x00#8
/-- The parameter of "set contrast" (R5 INIT_CONTRAST). -/
def initContrast : Byte := 0x80#8
/-- The parameter of "set oscillator frequency setting" (R5 INIT_OSC). -/
def initOsc : Byte := 0x41#8
/-- The parameter of "set pre-charge period" (R5 INIT_PRECHARGE). -/
def initPrecharge : Byte := 0x22#8
/-- The parameter of "set VCOM deselect level" (R5 INIT_VCOM). -/
def initVcom : Byte := 0x35#8
/-- The parameter of "set display offset" (R5 INIT_OFFSET). -/
def initOffset : Byte := 0x60#8

/-- The two entries a keymap byte carries: the lower column in bits 7:4, the next in bits 3:0 (R81). -/
def keymapRow (a b : Byte) : Quad Nibble :=
  ⟨a.extractLsb' 4 4, a.extractLsb' 0 4, b.extractLsb' 4 4, b.extractLsb' 0 4⟩

/-- The bytes after opcode `05`: eight bytes, row-major (R81). -/
def decodeKeymap : List Byte → Decoded
  | k0 :: k1 :: k2 :: k3 :: k4 :: k5 :: k6 :: k7 :: rest =>
    .done (.setKeymap ⟨keymapRow k0 k1, keymapRow k2 k3, keymapRow k4 k5, keymapRow k6 k7⟩) rest
  | _ => .incomplete

/-- The bytes after opcode `02`: X, Y, N and then N sprite bytes (R81). -/
def decodeXor : List Byte → Decoded
  | x :: y :: n :: rest =>
    if n.toNat ≤ rest.length then .done (.xor x y (rest.take n.toNat)) (rest.drop n.toNat) else .incomplete
  | _ => .incomplete

/-- A descriptor at the command port (R80, R82, R87, R89). -/
def decodeDescriptor : List Byte → Decoded
  | [] => .incomplete
  | opcode :: bytes =>
    if opcode = 0x00#8 then .done .init bytes
    else if opcode = 0x01#8 then .done .clear bytes
    else if opcode = 0x02#8 then decodeXor bytes
    else if opcode = 0x03#8 then .done .isAnyKeyPressed bytes
    else if opcode = 0x04#8 then .done .readKey bytes
    else if opcode = 0x05#8 then decodeKeymap bytes
    else .done (.reserved opcode) bytes

/-- The two response bytes (R88). -/
def decodeResponse : List Byte → Decoded
  | b0 :: b1 :: rest =>
    if b0.extractLsb' 4 2 = 0#2 ∧ b1.extractLsb' 5 3 = 0#3 then
      .done (.response (b0.extractLsb' 6 2) (b0.extractLsb' 0 4) (b1.extractLsb' 0 5)) rest
    else .rejected .responseBitSet
  | _ => .incomplete

/-- The sixteen nibbles in order. -/
def nibbles : List Nibble := (List.range 16).map (BitVec.ofNat 4)

/-- The first nibble that a column-command function takes to a byte. -/
def nibbleFor (cmd : Nibble → Byte) (b : Byte) : Option Nibble := nibbles.find? (fun n => decide (cmd n = b))

/-- One command byte: a simple command (R91 WS, R92, R93). -/
def decodeSimple (c : Byte) : Decoded :=
  match nibbleFor Config.colLoCmd c with
  | some n => .done (.panelColumnLow n) []
  | none =>
    match nibbleFor Config.colHiCmd c with
    | some n => .done (.panelColumnHigh n) []
    | none =>
      if c = Config.cmdVerticalMode then .done .panelVerticalAddressing []
      else if c = Config.cmdDisplayOn then .done .panelDisplayOn []
      else .rejected .unknownCommand

/-- A command byte and its parameter byte: a parameterized command (R91 WP, R92). -/
def decodeParam (c p : Byte) : Decoded :=
  if c = Config.cmdStartLine ∧ p = initStartLine then .done .panelSetStartLine []
  else if c = Config.cmdContrast ∧ p = initContrast then .done .panelSetContrast []
  else if c = Config.cmdOsc ∧ p = initOsc then .done .panelSetOsc []
  else if c = Config.cmdPrecharge ∧ p = initPrecharge then .done .panelSetPrecharge []
  else if c = Config.cmdVcom ∧ p = initVcom then .done .panelSetVcom []
  else if c = Config.cmdOffset ∧ p = initOffset then .done .panelSetOffset []
  else .rejected .unknownCommand

/-- The bytes of one framed transaction with the mode-select level it was sent under (R91). -/
def decodeFrame : Level → List Byte → Decoded
  | .low, [c] => decodeSimple c
  | .low, [c, p] => decodeParam c p
  | .low, _ => .rejected .unknownCommand
  | .high, payload => if payload.length = 16 then .done (.panelData payload) [] else .rejected .notSixteenBytes

/-- Decoding on each interface. -/
def decode : Interface → List Byte → Decoded
  | .hostDescriptor, bytes => decodeDescriptor bytes
  | .hostResponse, bytes => decodeResponse bytes
  | .panelWire mode, bytes => decodeFrame mode bytes

/-! The encoder. -/

/-- The two bytes of one keymap row (R81). -/
def encodeKeymapRow (q : Quad Nibble) : List Byte := [q.q0 ++ q.q1, q.q2 ++ q.q3]

/-- The bytes of an instruction on its interface, first byte first (R81, R82, R88, R92, R93, R144). -/
def encode : Instr → List Byte
  | .init => [0x00#8]
  | .clear => [0x01#8]
  | .xor x y sprite => 0x02#8 :: x :: y :: BitVec.ofNat 8 sprite.length :: sprite
  | .isAnyKeyPressed => [0x03#8]
  | .readKey => [0x04#8]
  | .setKeymap t =>
    0x05#8 :: (encodeKeymapRow t.q0 ++ encodeKeymapRow t.q1 ++ encodeKeymapRow t.q2 ++ encodeKeymapRow t.q3)
  | .reserved opcode => [opcode]
  | .response cat status value => [Machine.responseByte0 cat status, Machine.responseByte1 value]
  | .panelSetStartLine => [Config.cmdStartLine, initStartLine]
  | .panelSetContrast => [Config.cmdContrast, initContrast]
  | .panelVerticalAddressing => [Config.cmdVerticalMode]
  | .panelSetOsc => [Config.cmdOsc, initOsc]
  | .panelSetPrecharge => [Config.cmdPrecharge, initPrecharge]
  | .panelSetVcom => [Config.cmdVcom, initVcom]
  | .panelSetOffset => [Config.cmdOffset, initOffset]
  | .panelDisplayOn => [Config.cmdDisplayOn]
  | .panelColumnLow n => [Config.colLoCmd n]
  | .panelColumnHigh n => [Config.colHiCmd n]
  | .panelData payload => payload

/-- The mode-select level a panel transaction is sent under: low for commands, high for pixel data (R91). -/
def Instr.mode (i : Instr) : Level :=
  match i.interface with
  | .panelWire mode => mode
  | .hostDescriptor => .low
  | .hostResponse => .low

/-- Two column-command functions and two single-byte commands whose bytes can all be told apart. -/
def CommandsDistinct (lo hi : Nibble → Byte) (vertical on : Byte) : Prop :=
  (∀ m n, lo m = lo n → m = n) ∧ (∀ m n, hi m = hi n → m = n) ∧ (∀ m n, lo m ≠ hi n) ∧
  (∀ n, lo n ≠ vertical ∧ lo n ≠ on) ∧ (∀ n, hi n ≠ vertical ∧ hi n ≠ on) ∧ vertical ≠ on

/-- The OPEN single-byte commands can be told apart. R93 requires of `ColLoCmd` and `ColHiCmd` only that they are
functions of the nibble, so whatever reads commands back off the wire needs this as a premise (assumption log 9). -/
def Config.WireDistinct : Prop :=
  CommandsDistinct Config.colLoCmd Config.colHiCmd Config.cmdVerticalMode Config.cmdDisplayOn

/-! The opcode table's numbering of an instruction's bits. -/

/-- The bytes of `w`, least significant first: byte `k` is bits `8k+7` to `8k`. -/
def bytesLE : Nat → Nat → List Byte
  | 0, _ => []
  | k + 1, w => BitVec.ofNat 8 w :: bytesLE k (w / 256)

/-- The length in bytes of the descriptor whose bits are `w`: the opcode byte alone fixes it, but for XOR, where it is
`4 + N` with `N` in byte 3 (R89). -/
def descriptorLength (w : Nat) : Nat :=
  if w % 256 = 2 then 4 + w / 2 ^ 24 % 256
  else if w % 256 = 5 then 9
  else 1

/-- The interface a table row of `nbits` bits belongs to and its bytes in the order the port sees them. Sixteen bits is
the RESPONSE row alone, which the table numbers with byte 0 in bits 15:8 (its field c is bits 15:14, and R88 puts CAT
in byte 0); every other row with bits of its own is a host descriptor, byte 0 in bits 7:0, and the bits above `nbits`
are zero (assumption log 1). -/
def tableBytes (nbits w : Nat) : Interface × List Byte :=
  if nbits = 16 then (.hostResponse, [BitVec.ofNat 8 (w / 256), BitVec.ofNat 8 w])
  else (.hostDescriptor, bytesLE (descriptorLength (w % 2 ^ nbits)) (w % 2 ^ nbits))

/-- The instruction the decoder reads from the bits `w` of an opcode-table row of `nbits` bits. -/
def decodeTableWord (nbits w : Nat) : Option Instr :=
  match decode (tableBytes nbits w).1 (tableBytes nbits w).2 with
  | .done i _ => some i
  | .incomplete => none
  | .rejected _ => none

end Sys2Proof
end

