-- ==== Sys2Proof/Machine/State.lean ====
section
/-! DEFINITION. Everything the spec gives the machine (spec/10_state.md rule R20), the ports and the environment as
plain data, the ways a step can stop, and the state after reset (R30, R240). -/

namespace Sys2Proof.Machine

/-- The logical framebuffer by linear address `8*r + b` (R21, R51): addresses strictly rising, all below 256, and no
entry equal to `0x00`, which is what every unlisted byte reads as (R30: all 256 bytes are 0x00 after reset). -/
abbrev Memory := List Host.Cell

/-- The seven output lines (R8). -/
inductive Line where
  | cs
  | dc
  | rst
  | col (c : Line4)
deriving DecidableEq, Repr

/-- The seven output latches: the level last driven on each line (R24). -/
structure Latches where
  cs : Level
  dc : Level
  rst : Level
  cols : Quad Level
deriving DecidableEq, Repr

/-- The result register (R26): STATUS, VALUE, and whether an operation has completed since reset, before which it is
not valid (R30). -/
structure ResultReg where
  status : Nibble
  value : BitVec 5
  valid : Bool
deriving DecidableEq, Repr

/-- The operation in progress (R33), by the descriptor that started it (R82). -/
inductive Op where
  | init
  | clear
  | xor
  | isAnyKeyPressed
  | readKey
  | setKeymap
  | reserved
deriving DecidableEq, Repr

/-- The step inside a display transaction (R33, R140): the next exchange is the asserting write, the mode-select write,
the bus write, or the de-asserting write, which remembers the error of the try part. -/
inductive TxStep where
  | assertCs
  | setMode
  | send
  | release (raised : Option Kind)
deriving DecidableEq, Repr

/-- The three transactions of `WriteColumn` (R145, R147). -/
inductive ColPart where
  | lo
  | hi
  | data
deriving DecidableEq, Repr

/-- The configuration commands of INIT, steps 2 to 8 (R150). -/
inductive ConfigCmd where
  | startLine
  | contrast
  | verticalMode
  | osc
  | precharge
  | vcom
  | offset
deriving DecidableEq, Repr

/-- Which transaction of a display operation: a configuration command of INIT; column `a` of `ClearBody`; the last step
of INIT; or the rendering of sprite byte `i`'s row at its first or second physical column (R33). -/
inductive FramePos where
  | config (c : ConfigCmd)
  | column (a : Fin 64) (part : ColPart)
  | displayOn
  | row (i : Nat) (second : Bool) (part : ColPart)
deriving DecidableEq, Repr

/-- The three writes of the reset pulse (R146). -/
inductive PulseStep where
  | first
  | fall
  | rise
deriving DecidableEq, Repr

/-- What `Scan` yielded (R116), which the restoration carries to its end (R117, R118). -/
inductive ScanEnd where
  | noKey
  | key (k : Nibble)
  | failed (e : Kind)
deriving DecidableEq, Repr

/-- The position in an operation's event sequence (R33). -/
inductive Phase where
  /-- INIT step 1: the next write of the reset pulse -/
  | resetPulse (p : PulseStep)
  /-- inside a display transaction -/
  | frame (f : FramePos) (t : TxStep)
  /-- XOR, head of the loop body for sprite byte `i`: the framebuffer update is next (no exchange) -/
  | composite (i : Nat)
  /-- CLEAR and INIT step 9, after the last column: the framebuffer reset is next (no exchange) -/
  | zeroFb
  /-- the sample of the pre-check: row `r` is next, the rows below it have been read -/
  | preSample (r : Line4) (rows : BitVec 4)
  /-- Scan step 1: column `c` is driven low next -/
  | deenergize (c : Line4)
  /-- Scan step 2a -/
  | energize (c : Line4)
  /-- Scan step 2b -/
  | settle (c : Line4)
  /-- Scan step 2c -/
  | sample (c r : Line4) (rows : BitVec 4)
  /-- Scan step 2d -/
  | backLow (c : Line4)
  /-- the restoration: column `c` is driven high next; what the scan yielded, and the first failure so far -/
  | restore (c : Line4) (scan : ScanEnd) (first : Option Kind)
  /-- SET_KEYMAP: the table is written next (no exchange) -/
  | loadKeymap
  /-- the response is written next (no exchange) -/
  | respond (cat : BitVec 2) (status : Nibble) (value : BitVec 5)
deriving DecidableEq, Repr

/-- The sequencer position (R33). -/
inductive Seq where
  | idle
  | busy (op : Op) (phase : Phase)
deriving DecidableEq, Repr

/-- One trace event (R9): an exchange with its arguments and its outcome; a failed one is the spec's `!`. -/
inductive Event where
  | wrote (l : Line) (v : Level)
  | writeFailed (l : Line) (v : Level)
  | read (r : Line4) (v : Level)
  | readFailed (r : Line4)
  | sent (bytes : List Byte)
  | sendFailed (bytes : List Byte)
  | waited (us : Nat)
  | waitFailed (us : Nat)
deriving DecidableEq, Repr

/-- The state of the block (the first six fields are R20's list) and of its surroundings as the block meets them. -/
structure State where
  /-- FB, the logical framebuffer (R21) -/
  fb : Memory
  /-- KEYMAP (R22) -/
  keymap : Keymap
  /-- OUT, the seven output latches (R24) -/
  out : Latches
  /-- the operand latches (R25) -/
  operands : Operands
  /-- the result register (R26) -/
  result : ResultReg
  /-- SEQ, the sequencer position (R33) -/
  seq : Seq
  /-- the bytes the host has offered at the command port and the block has not taken (R80) -/
  cmdIn : List Byte
  /-- the answers the environment will give to the next exchanges (R8), assumption log 3 -/
  env : List Answer
  /-- the trace so far (R8), newest event first; its length numbers the free values -/
  log : List Event
  /-- the responses presented to the host (R88), byte 0 and byte 1 of each, newest first -/
  responses : List (Byte × Byte)
deriving DecidableEq, Repr

/-- Why the machine stops with a fault. No operation faults: an error of the block is a response (R214). -/
inductive Fault where
  /-- Raised by `step` at a sequencer position that R33 does not list for the operation in progress, such as a keypad
  phase of CLEAR. No operation reaches one. Safe: the machine stops (assumption log 16). -/
  | noSuchPosition
deriving DecidableEq, Repr

/-- Why an instruction has no meaning. -/
inductive Refusal where
  /-- Would be raised by `exec` for an instruction whose meaning is not written; no arm of `exec` does so. Safe. -/
  | notModelled (mnemonic : String)
deriving DecidableEq, Repr

/-- The default keymap (R31). -/
def defaultKeymap : Keymap :=
  ⟨⟨0x1#4, 0x2#4, 0x3#4, 0xF#4⟩, ⟨0x4#4, 0x5#4, 0x6#4, 0xE#4⟩,
   ⟨0x7#4, 0x8#4, 0x9#4, 0xD#4⟩, ⟨0xA#4, 0x0#4, 0xB#4, 0xC#4⟩⟩

/-- The state right after reset (R30, R240). The columns and chip-select are high; `OUT.DC` and `OUT.RST` are
unspecified there and are given the level low, the operand latches are unspecified and are given zeros (DESIGN CHOICE,
assumption log 5 and 6). The command port, the environment's list, the trace and the list of responses are empty. -/
def State.reset : State where
  fb := []
  keymap := defaultKeymap
  out := ⟨.high, .low, .low, Quad.all .high⟩
  operands := ⟨0#8, 0#8, 0#8, 0#8, [], Quad.all (Quad.all 0#4)⟩
  result := ⟨0#4, 0#5, false⟩
  seq := .idle
  cmdIn := []
  env := []
  log := []
  responses := []

end Sys2Proof.Machine
end

