-- ==== Sys2Proof/Machine/Operands.lean ====
section
/-! DEFINITION. Operand forms: XOR's effective address and the two pieces of a sprite byte (spec/20_memory.md rules R53
to R56, R193), the physical column of a row and the nibbles of a column address (R93, R170), and the loading of the
operand latches (R25, R81, R86). -/

namespace Sys2Proof.Machine

/-- `col_offset = X mod 8` (R53). -/
def colOffset (x : Byte) : Nat := x.toNat % 8

/-- `byte_index = (X mod 64) div 8` (R53). -/
def byteIndex (x : Byte) : Nat := x.toNat % 64 / 8

/-- The second byte of a straddling access: `(byte_index + 1) mod 8`, in the same row (R55). -/
def nextByteIndex (x : Byte) : Nat := (byteIndex x + 1) % 8

/-- The row of sprite byte `i`: `(Y + i) mod 32`, on the mathematical sum (R56, ROW_POLICY = wrap). -/
def rowOf (y : Byte) (i : Nat) : Nat := (y.toNat + i) % 32

/-- The piece of sprite byte `s` that lands in byte `byte_index`: `s >> off`, all of `s` when `off` is 0 (R54, R55). -/
def firstPiece (x s : Byte) : Byte := s >>> colOffset x

/-- The piece of `s` that lands in the next byte: `(s << (8 - off))[7:0]`, for `off` in 1 to 7 (R55). -/
def secondPiece (x s : Byte) : Byte := s <<< (8 - colOffset x)

/-- `PhysCol(row) = 2 * (31 - (row mod 32))` (R170). -/
def physCol (row : Nat) : Nat := 2 * (31 - row % 32)

/-- The low nibble of a column address, `a mod 16` (R93). -/
def addrLo (a : Nat) : Nibble := BitVec.ofNat 4 (a % 16)

/-- The high nibble of a column address, `a div 16` (R93). -/
def addrHi (a : Nat) : Nibble := BitVec.ofNat 4 (a / 16)

/-- The column at which sprite byte `i`'s row is rendered first or second (R176). -/
def rowColumn (y : Byte) (i : Nat) (second : Bool) : Nat :=
  if second then physCol (rowOf y i) + 1 else physCol (rowOf y i)

/-- The operand latches loaded with an operation that has only an opcode. Fields the descriptor does not carry keep
what the latches held. -/
def loadOp (old : Operands) (opcode : Byte) : Operands := { old with op := opcode }

/-- The operand latches loaded with an XOR descriptor (R25, R81). -/
def loadXor (old : Operands) (x y : Byte) (sprite : List Byte) : Operands :=
  { old with op := 0x02#8, x := x, y := y, n := BitVec.ofNat 8 sprite.length, sprite := sprite }

/-- The operand latches loaded with a SET_KEYMAP descriptor (R25, R81). -/
def loadTable (old : Operands) (t : Keymap) : Operands := { old with op := 0x05#8, table := t }

end Sys2Proof.Machine
end

