-- ==== Sys2Proof/Machine/Ops.lean ====
section
/-! DEFINITION. The named operations over the state: framebuffer bytes, the four primitive exchanges (spec/00_scope.md
rule R8), sequencing of procedures with the spec's `?` (R9), the end of an operation with its response (R26, R88), and
the abort that every failure takes (R214). -/

namespace Sys2Proof.Machine

/-! The framebuffer as a memory (R21, R51). -/

/-- What an unlisted framebuffer byte reads as: every byte is 0x00 after reset (R30). -/
def Memory.unlisted : Byte := 0x00#8

/-- `MemRead(a, 1)` (R51). -/
def Memory.read : Memory → Nat → Byte
  | [], _ => Memory.unlisted
  | (b, v) :: rest, a => if a = b then v else Memory.read rest a

/-- `MemWrite(a, 1, v)` (R51), in the canonical form. -/
def Memory.write : Memory → Nat → Byte → Memory
  | [], a, v => if v = Memory.unlisted then [] else [(a, v)]
  | (b, w) :: rest, a, v =>
    if a < b then (if v = Memory.unlisted then (b, w) :: rest else (a, v) :: (b, w) :: rest)
    else if a = b then (if v = Memory.unlisted then rest else (a, v) :: rest)
    else (b, w) :: Memory.write rest a v

/-- The form of a framebuffer memory from address `lo` on. -/
def Memory.wfFrom : Nat → Memory → Bool
  | _, [] => true
  | lo, (a, v) :: rest =>
    decide (lo ≤ a) && decide (a < 256) && decide (v ≠ Memory.unlisted) && Memory.wfFrom (a + 1) rest

/-- The canonical form: addresses strictly rising, below 256, no entry equal to what an unlisted byte reads as. -/
def Memory.wf (m : Memory) : Bool := Memory.wfFrom 0 m

/-- The linear address of `FB[r][b]` (R51). -/
def fbAddr (r b : Nat) : Nat := 8 * r + b

/-- `FB[r][b]` of a framebuffer (R21). -/
def fbRead (m : Memory) (r b : Nat) : Byte := Memory.read m (fbAddr r b)

/-- `FB[r][b]` (R21). -/
def State.fbByte (s : State) (r b : Nat) : Byte := fbRead s.fb r b

/-- `FB[r][b] <- v` on a framebuffer. -/
def fbWrite (m : Memory) (r b : Nat) (v : Byte) : Memory := Memory.write m (fbAddr r b) v

/-- `FB[r][b] <- FB[r][b] ^ v`: the read-modify-write of R54 and R55. -/
def fbXor (m : Memory) (r b : Nat) (v : Byte) : Memory := fbWrite m r b (fbRead m r b ^^^ v)

/-- The logical pixel at column `px` of row `r`: bit `7 - (px mod 8)` of `FB[r][px div 8]` (R52). -/
def fbPixel (m : Memory) (px r : Nat) : Bool := (fbRead m r (px / 8)).getLsbD (7 - px % 8)

/-! Output latches (R24). -/

/-- The level a latch holds. -/
def Latches.get (o : Latches) : Line → Level
  | .cs => o.cs
  | .dc => o.dc
  | .rst => o.rst
  | .col c => o.cols.get c

/-- The latches with one replaced. -/
def Latches.set (o : Latches) (l : Line) (v : Level) : Latches :=
  match l with
  | .cs => { o with cs := v }
  | .dc => { o with dc := v }
  | .rst => { o with rst := v }
  | .col c => { o with cols := o.cols.set c v }

/-- The error kind of a failed write on a line (R8, R211). -/
def Line.kind : Line → Kind
  | .cs => .chipSelect
  | .dc => .modeSelect
  | .rst => .resetLine
  | .col _ => .pinWrite

/-! The environment's answers (R8). -/

/-- The answer the environment gives to the next exchange: the head of the state's list, and past its end an
uninterpreted answer numbered by the exchanges made so far (assumption log 3). -/
def State.answer (s : State) : Answer :=
  match s.env with
  | a :: _ => a
  | [] => Config.envAnswer s.log.length

/-- The state after one exchange that left the trace event `e`. -/
def State.after (s : State) (e : Event) : State := { s with env := s.env.drop 1, log := e :: s.log }

/-! Procedures: they yield `Ok(v)` or `Err(Kind)` and the state they leave (R9). -/

/-- What a procedure yields (R9). -/
inductive Yield (α : Type) where
  | ok (v : α)
  | err (k : Kind)
deriving DecidableEq, Repr

/-- A procedure over the state. -/
abbrev Proc (α : Type) := State → Yield α × State

/-- Yield a value, no exchange. -/
def pureP {α : Type} (v : α) : Proc α := fun s => (.ok v, s)

/-- `P?` and then the rest: a failure of `P` ends the whole with the same kind (R9). -/
def andThen {α β : Type} (p : Proc α) (f : α → Proc β) : Proc β := fun s =>
  match p s with
  | (.ok v, s') => f v s'
  | (.err k, s') => (.err k, s')

/-- A counted loop over a list, each pass with `?` (R9). -/
def forEach {ι : Type} : List ι → (ι → Proc Unit) → Proc Unit
  | [], _ => pureP ()
  | i :: rest, body => andThen (body i) (fun _ => forEach rest body)

/-! The four primitive exchanges (R8). -/

/-- `PinWrite(L, v)`: on success the latch takes the level; on failure it holds either level (R8, R24, U8). -/
def pinWrite (l : Line) (v : Level) : Proc Unit := fun s =>
  match s.answer with
  | .succeeds _ => (.ok (), { s.after (.wrote l v) with out := s.out.set l v })
  | .fails =>
    (.err l.kind, { s.after (.writeFailed l v) with out := s.out.set l (Config.freeLevel s.log.length) })

/-- `PinRead(ROWr)`: a level chosen by the environment (R8). -/
def pinRead (r : Line4) : Proc Level := fun s =>
  match s.answer with
  | .succeeds v => (.ok v, s.after (.read r v))
  | .fails => (.err .pinRead, s.after (.readFailed r))

/-- `BusWrite(bytes)` (R8). -/
def busWrite (bytes : List Byte) : Proc Unit := fun s =>
  match s.answer with
  | .succeeds _ => (.ok (), s.after (.sent bytes))
  | .fails => (.err .busWrite, s.after (.sendFailed bytes))

/-- The settle interval in microseconds (R5 SETTLE_US). -/
def settleUs : Nat := 500

/-- `DelayUs(500)` (R8, R123). -/
def delay : Proc Unit := fun s =>
  match s.answer with
  | .succeeds _ => (.ok (), s.after (.waited settleUs))
  | .fails => (.err .delay, s.after (.waitFailed settleUs))

/-! The end of an operation. -/

/-- Write the result register and present the response (R26, R88). The operation is over: SEQ returns to IDLE (R33)
and the operand latches are meaningless (R25, U10; assumption log 7). -/
def writeResponse (cat : BitVec 2) (status : Nibble) (value : BitVec 5) (s : State) : State :=
  { s with
    result := ⟨status, value, true⟩
    responses := (responseByte0 cat status, responseByte1 value) :: s.responses
    operands := Config.freeOperands s.responses.length
    seq := .idle }

/-- `respond Ok(v)`: STATUS 0 and the operation's VALUE (R26, R88). -/
def respondOk (value : BitVec 5) (s : State) : State := writeResponse (categoryOf statusOk) statusOk value s

/-- Taking an exception, the abort of R214: the result register gets the error's STATUS and VALUE 0, SEQ returns to
IDLE; nothing is saved, nothing is vectored, no mode changes. The clean-up exchanges an abort makes on its way here are
those of the procedures it leaves (R141, R117). There is no return from it (R218). -/
def abort (k : Kind) (s : State) : State :=
  writeResponse (categoryOf (statusOf k)) (statusOf k) valueNone s

/-- End an operation with what its body yielded (R214). -/
def respond (r : Yield (BitVec 5) × State) : State :=
  match r with
  | (.ok v, s) => respondOk v s
  | (.err k, s) => abort k s

/-- Load the operand latches (R25). -/
def State.load (s : State) (o : Operands) : State := { s with operands := o }

end Sys2Proof.Machine
end

