-- ==== Sys2Proof/Machine/Encoder.lean ====
section
/-! DEFINITION. column_encoder_bitdouble: one framebuffer row as a sixteen-byte payload (spec/42_column_encoder_bitdouble.md
rules R171 to R174). -/

namespace Sys2Proof.Machine

/-- `Rev8(v)`: bit `k` of the result is bit `7 - k` of `v` (R171). -/
def rev8 (v : Byte) : Byte :=
  v.extractLsb' 0 1 ++ v.extractLsb' 1 1 ++ v.extractLsb' 2 1 ++ v.extractLsb' 3 1 ++
  v.extractLsb' 4 1 ++ v.extractLsb' 5 1 ++ v.extractLsb' 6 1 ++ v.extractLsb' 7 1

/-- `DBL(n)`: bits `2k` and `2k + 1` of the result are bit `k` of `n` (R172). -/
def dbl (n : Nibble) : Byte :=
  n.extractLsb' 3 1 ++ n.extractLsb' 3 1 ++ n.extractLsb' 2 1 ++ n.extractLsb' 2 1 ++
  n.extractLsb' 1 1 ++ n.extractLsb' 1 1 ++ n.extractLsb' 0 1 ++ n.extractLsb' 0 1

/-- `Expand(v)`: the expansion of the low nibble of the reversed byte, then of its high nibble (R173,
NIBBLE_ORDER = low_first, assumption log 11). -/
def expand (v : Byte) : List Byte := [dbl ((rev8 v).extractLsb' 0 4), dbl ((rev8 v).extractLsb' 4 4)]

/-- The eight row-byte numbers, ascending (R174). -/
def rowByteNumbers : List Nat := [0, 1, 2, 3, 4, 5, 6, 7]

/-- `EncodeRow(row)`: the expansions of the row's eight bytes, ascending, concatenated (R174). -/
def encodeRow (m : Memory) (row : Nat) : List Byte := rowByteNumbers.flatMap (fun b => expand (fbRead m row b))

/-- The sixteen zero bytes CLEAR sends to every column (R195). -/
def zeroPayload : List Byte := List.replicate 16 0x00#8

end Sys2Proof.Machine
end

