-- ==== Sys2Proof/Machine/Position.lean ====
section
/-! DEFINITION. The sequencer position SEQ (spec/10_state.md rule R33): where an operation begins, what follows a panel
transaction, which transaction or response the sequencer stands before, and which positions an operation has. -/

namespace Sys2Proof.Machine

/-- The position from which the response of a successful operation is written. -/
def okPhase (value : BitVec 5) : Phase := .respond (categoryOf statusOk) statusOk value

/-- The position from which the response of an aborted operation is written (R214). -/
def errPhase (k : Kind) : Phase := .respond (categoryOf (statusOf k)) (statusOf k) valueNone

/-- The position before a display transaction. -/
def frameStart (f : FramePos) : Phase := .frame f .assertCs

/-- The configuration command after one, in the order of INIT steps 2 to 8 (R150). -/
def ConfigCmd.next : ConfigCmd → Option ConfigCmd
  | .startLine => some .contrast
  | .contrast => some .verticalMode
  | .verticalMode => some .osc
  | .osc => some .precharge
  | .precharge => some .vcom
  | .vcom => some .offset
  | .offset => none

/-- What follows a display transaction that succeeded (R147, R150, R176, R190, R195). -/
def FramePos.next : FramePos → Phase
  | .config c =>
    match c.next with
    | some d => frameStart (.config d)
    | none => frameStart (.column 0 .lo)
  | .column a .lo => frameStart (.column a .hi)
  | .column a .hi => frameStart (.column a .data)
  | .column a .data =>
    match nextOf a with
    | some b => frameStart (.column b .lo)
    | none => .zeroFb
  | .displayOn => okPhase valueNone
  | .row i second .lo => frameStart (.row i second .hi)
  | .row i second .hi => frameStart (.row i second .data)
  | .row i false .data => frameStart (.row i true .lo)
  | .row i true .data => .composite (i + 1)

/-- What follows a display transaction, by what it yielded: a failure ends the operation (R214). -/
def FramePos.afterYield (f : FramePos) : Yield Unit → Phase
  | .ok _ => f.next
  | .err k => errPhase k

/-- The panel transaction of INIT's configuration command (R92, R150). -/
def ConfigCmd.instr : ConfigCmd → Instr
  | .startLine => .panelSetStartLine
  | .contrast => .panelSetContrast
  | .verticalMode => .panelVerticalAddressing
  | .osc => .panelSetOsc
  | .precharge => .panelSetPrecharge
  | .vcom => .panelSetVcom
  | .offset => .panelSetOffset

/-- The panel transaction of one part of `WriteColumn(a, P)` (R145, R147). -/
def columnInstr (a : Nat) (payload : List Byte) : ColPart → Instr
  | .lo => .panelColumnLow (addrLo a)
  | .hi => .panelColumnHigh (addrHi a)
  | .data => .panelData payload

/-- The panel transaction at a position of the operation in progress; XOR's operands come from the operand latches
(R33, R150, R176, R195). -/
def State.frameInstr (s : State) : FramePos → Instr
  | .config c => c.instr
  | .column a part => columnInstr a.val zeroPayload part
  | .displayOn => .panelDisplayOn
  | .row i second part =>
    columnInstr (rowColumn s.operands.y i second) (encodeRow s.fb (rowOf s.operands.y i)) part

/-- The row of the opcode table that the sequencer stands before, if it stands before one: a panel transaction none of
whose exchanges has been made, or the response. -/
def State.pending (s : State) : Option Instr :=
  match s.seq with
  | .busy _ (.frame f .assertCs) => some (s.frameInstr f)
  | .busy _ (.respond cat status value) => some (.response cat status value)
  | _ => none

/-- Where an operation begins (R33 and the operation rules). A reserved opcode has only its response (R87). -/
def Op.first : Op → Phase
  | .init => .resetPulse .first
  | .clear => frameStart (.column 0 .lo)
  | .xor => .composite 0
  | .isAnyKeyPressed => .preSample 0 0#4
  | .readKey => .preSample 0 0#4
  | .setKeymap => .loadKeymap
  | .reserved => errPhase .illegalOp

/-- The operand latches are those of the operation: OP is its opcode (R25, R82), and N is the number of sprite bytes
that XOR has latched (R81). -/
def operandsLegal (o : Operands) : Op → Bool
  | .init => decide (o.op = 0x00#8)
  | .clear => decide (o.op = 0x01#8)
  | .xor => decide (o.op = 0x02#8) && decide (o.n.toNat = o.sprite.length)
  | .isAnyKeyPressed => decide (o.op = 0x03#8)
  | .readKey => decide (o.op = 0x04#8)
  | .setKeymap => decide (o.op = 0x05#8)
  | .reserved => decide (6 ≤ o.op.toNat)

/-- The positions R33 lists for each operation before its response; XOR's `i` runs up to N. -/
def positionLegal (o : Operands) : Op → Phase → Bool
  | .init, .resetPulse _ => true
  | .init, .frame (.config _) _ => true
  | .init, .frame (.column _ _) _ => true
  | .init, .zeroFb => true
  | .init, .frame .displayOn _ => true
  | .clear, .frame (.column _ _) _ => true
  | .clear, .zeroFb => true
  | .xor, .composite i => decide (i ≤ o.n.toNat)
  | .xor, .frame (.row i _ _) _ => decide (i < o.n.toNat)
  | .isAnyKeyPressed, .preSample _ _ => true
  | .readKey, .preSample _ _ => true
  | .readKey, .deenergize _ => true
  | .readKey, .energize _ => true
  | .readKey, .settle _ => true
  | .readKey, .sample _ _ _ => true
  | .readKey, .backLow _ => true
  | .readKey, .restore _ _ _ => true
  | .setKeymap, .loadKeymap => true
  | _, _ => false

/-- A busy sequencer stands at a position that its operation has, with that operation's operands; every operation has its
response, for which the operands no longer matter. -/
def phaseLegal (o : Operands) (op : Op) (phase : Phase) : Bool :=
  match phase with
  | .respond _ _ _ => true
  | other => operandsLegal o op && positionLegal o op other

/-- SEQ stands at a position the spec gives it. -/
def State.seqLegal (s : State) : Bool :=
  match s.seq with
  | .idle => true
  | .busy op phase => phaseLegal s.operands op phase

/-- The sequencer goes on to a position of the operation in progress. -/
def State.goto (s : State) (op : Op) (phase : Phase) : State := { s with seq := .busy op phase }

/-- After a whole panel transaction: if the sequencer stood before one, it goes on by what that one yielded; otherwise
no operation waits for the outcome (assumption log 21). -/
def State.endFrame (s : State) (r : Yield Unit) : State :=
  match s.seq with
  | .busy op (.frame f .assertCs) => s.goto op (f.afterYield r)
  | _ => s

end Sys2Proof.Machine
end

