-- ==== Sys2Proof/Machine/Wire.lean ====
section
/-! DEFINITION. serial_command_sequencer: the framed transaction, column addressing and the reset pulse
(spec/41_serial_command_sequencer.md rules R140 to R147), and the meanings of the table's panel transactions. -/

namespace Sys2Proof.Machine

/-- The try part of a transaction (R140). -/
def transactionBody (mode : Level) (bytes : List Byte) : Proc Unit :=
  andThen (pinWrite .dc mode) (fun _ => busWrite bytes)

/-- `Transaction(mode, bytes)` (R140, R141): chip-select is asserted, the try part runs, chip-select is de-asserted
whatever the try part yielded; the first failure in trace order is the one reported. -/
def transaction (mode : Level) (bytes : List Byte) : Proc Unit := fun s =>
  match pinWrite .cs .low s with
  | (.err k, s1) => (.err k, s1)
  | (.ok _, s1) =>
    match transactionBody mode bytes s1 with
    | (.err k, s2) => (.err k, (pinWrite .cs .high s2).2)
    | (.ok _, s2) => pinWrite .cs .high s2

/-- `SimpleCmd(c)` (R142). -/
def simpleCmd (c : Byte) : Proc Unit := transaction .low [c]

/-- `ParamCmd(c, p)` (R143). -/
def paramCmd (c p : Byte) : Proc Unit := transaction .low [c, p]

/-- `Data(P)` (R144). -/
def dataFrame (payload : List Byte) : Proc Unit := transaction .high payload

/-- `SetColumn(a)`: low nibble first, then high (R145). -/
def setColumn (a : Nat) : Proc Unit :=
  andThen (simpleCmd (Config.colLoCmd (addrLo a))) (fun _ => simpleCmd (Config.colHiCmd (addrHi a)))

/-- `WriteColumn(a, P)` (R147). -/
def writeColumn (a : Nat) (payload : List Byte) : Proc Unit := andThen (setColumn a) (fun _ => dataFrame payload)

/-- `ResetPulse()` (R146). -/
def resetPulse : Proc Unit :=
  andThen (pinWrite .rst .high) (fun _ => andThen (pinWrite .rst .low) (fun _ => pinWrite .rst .high))

/-- A panel transaction run as one instruction: its exchanges, and then the sequencer goes on by what it yielded. -/
def wireStep (p : Proc Unit) (s : State) : State := (p s).2.endFrame (p s).1

/-! The meanings of the panel transactions (R92, R93, R144). -/

/-- "set display start line = 0" (R92). -/
def execPanelSetStartLine (s : State) : Host.Outcome State Fault Refusal :=
  .next (wireStep (paramCmd Config.cmdStartLine initStartLine) s)

/-- "set contrast = 0x80" (R92). -/
def execPanelSetContrast (s : State) : Host.Outcome State Fault Refusal :=
  .next (wireStep (paramCmd Config.cmdContrast initContrast) s)

/-- "select vertical addressing mode" (R92). -/
def execPanelVerticalAddressing (s : State) : Host.Outcome State Fault Refusal :=
  .next (wireStep (simpleCmd Config.cmdVerticalMode) s)

/-- "set oscillator frequency setting = 0x41" (R92). -/
def execPanelSetOsc (s : State) : Host.Outcome State Fault Refusal :=
  .next (wireStep (paramCmd Config.cmdOsc initOsc) s)

/-- "set pre-charge period = 0x22" (R92). -/
def execPanelSetPrecharge (s : State) : Host.Outcome State Fault Refusal :=
  .next (wireStep (paramCmd Config.cmdPrecharge initPrecharge) s)

/-- "set VCOM deselect level = 0x35" (R92). -/
def execPanelSetVcom (s : State) : Host.Outcome State Fault Refusal :=
  .next (wireStep (paramCmd Config.cmdVcom initVcom) s)

/-- "set display offset = 0x60" (R92). -/
def execPanelSetOffset (s : State) : Host.Outcome State Fault Refusal :=
  .next (wireStep (paramCmd Config.cmdOffset initOffset) s)

/-- "power the display on" (R92). -/
def execPanelDisplayOn (s : State) : Host.Outcome State Fault Refusal :=
  .next (wireStep (simpleCmd Config.cmdDisplayOn) s)

/-- Column address, low nibble: `SimpleCmd(ColLoCmd(n))` (R93, R145). -/
def execPanelColumnLow (n : Nibble) (s : State) : Host.Outcome State Fault Refusal :=
  .next (wireStep (simpleCmd (Config.colLoCmd n)) s)

/-- Column address, high nibble: `SimpleCmd(ColHiCmd(n))` (R93, R145). -/
def execPanelColumnHigh (n : Nibble) (s : State) : Host.Outcome State Fault Refusal :=
  .next (wireStep (simpleCmd (Config.colHiCmd n)) s)

/-- Pixel data: `Data(P)` (R144). -/
def execPanelData (payload : List Byte) (s : State) : Host.Outcome State Fault Refusal :=
  .next (wireStep (dataFrame payload) s)

end Sys2Proof.Machine
end

