-- ==== Sys2Proof/Machine/Display.lean ====
section
/-! DEFINITION. framebuffer_compositor_xor and the display operations INIT, CLEAR and XOR
(spec/43_framebuffer_compositor_xor.md rules R190, R195; spec/41_serial_command_sequencer.md rule R150;
spec/42_column_encoder_bitdouble.md rule R176). -/

namespace Sys2Proof.Machine

/-- Steps 1 to 3 of XOR's loop body: sprite byte `sb` composited into a row of the framebuffer (R54, R55, R190). -/
def compositeByte (m : Memory) (x : Byte) (row : Nat) (sb : Byte) : Memory :=
  if colOffset x = 0 then fbXor m row (byteIndex x) sb
  else fbXor (fbXor m row (byteIndex x) (firstPiece x sb)) row (nextByteIndex x) (secondPiece x sb)

/-- The whole sprite from byte number `i` on composited, with nothing rendered: the framebuffer XOR leaves (R190). -/
def compositeFrom (x y : Byte) : Nat → List Byte → Memory → Memory
  | _, [], m => m
  | i, sb :: rest, m => compositeFrom x y (i + 1) rest (compositeByte m x (rowOf y i) sb)

/-- `RenderRow(row)`: the payload is computed once and sent to both physical columns of the row (R176). -/
def renderRow (row : Nat) : Proc Unit := fun s =>
  andThen (writeColumn (physCol row) (encodeRow s.fb row))
    (fun _ => writeColumn (physCol row + 1) (encodeRow s.fb row)) s

/-- XOR's loop from sprite byte number `i` on: update the row, render it, go on (R190). -/
def xorFrom (x y : Byte) : Nat → List Byte → Proc Unit
  | _, [] => pureP ()
  | i, sb :: rest => fun s =>
    andThen (renderRow (rowOf y i)) (fun _ => xorFrom x y (i + 1) rest)
      { s with fb := compositeByte s.fb x (rowOf y i) sb }

/-- The framebuffer reset of `ClearBody`: every byte becomes 0x00, which in the canonical form lists nothing (R195). -/
def State.zeroFb (s : State) : State := { s with fb := [] }

/-- `ClearBody()`: zeros to all 64 columns in ascending order, then the framebuffer reset (R195). -/
def clearBody : Proc Unit :=
  andThen (forEach (List.range 64) (fun a => writeColumn a zeroPayload)) (fun _ s => (.ok (), s.zeroFb))

/-- INIT steps 2 to 8 (R150). -/
def configBody : Proc Unit :=
  andThen (paramCmd Config.cmdStartLine initStartLine) fun _ =>
  andThen (paramCmd Config.cmdContrast initContrast) fun _ =>
  andThen (simpleCmd Config.cmdVerticalMode) fun _ =>
  andThen (paramCmd Config.cmdOsc initOsc) fun _ =>
  andThen (paramCmd Config.cmdPrecharge initPrecharge) fun _ =>
  andThen (paramCmd Config.cmdVcom initVcom) fun _ =>
  paramCmd Config.cmdOffset initOffset

/-- INIT steps 1 to 10 (R150). -/
def initBody : Proc (BitVec 5) :=
  andThen resetPulse fun _ =>
  andThen configBody fun _ =>
  andThen clearBody fun _ =>
  andThen (simpleCmd Config.cmdDisplayOn) fun _ =>
  pureP valueNone

/-- INIT (R150). -/
def execInit (s : State) : Host.Outcome State Fault Refusal :=
  .next (respond (initBody (s.load (loadOp s.operands 0x00#8))))

/-- CLEAR (R195). -/
def execClear (s : State) : Host.Outcome State Fault Refusal :=
  .next (respond (andThen clearBody (fun _ => pureP valueNone) (s.load (loadOp s.operands 0x01#8))))

/-- XOR (R190). -/
def execXor (x y : Byte) (sprite : List Byte) (s : State) : Host.Outcome State Fault Refusal :=
  .next (respond (andThen (xorFrom x y 0 sprite) (fun _ => pureP xorResult) (s.load (loadXor s.operands x y sprite))))

end Sys2Proof.Machine
end

