-- ==== Sys2Proof/Machine/HostPort.lean ====
section
/-! DEFINITION. The meanings of the reserved opcodes and of the response (spec/30_encoding.md rules R87, R88). -/

namespace Sys2Proof.Machine

/-- A reserved opcode: no exchange, no change to FB, KEYMAP or a latch, and the response ILLEGAL_OP (R87, R219). -/
def execReserved (opcode : Byte) (s : State) : Host.Outcome State Fault Refusal :=
  .next (abort .illegalOp (s.load (loadOp s.operands opcode)))

/-- The response: the result register is written and its two bytes are presented to the host (R26, R88). -/
def execResponse (cat : BitVec 2) (status : Nibble) (value : BitVec 5) (s : State) :
    Host.Outcome State Fault Refusal :=
  .next (writeResponse cat status value s)

end Sys2Proof.Machine
end

