-- ==== Sys2Proof/Machine/Keypad.lean ====
section
/-! DEFINITION. row_column_multiplexer and keypad_matrix_scanner, and the keypad operations IS_ANY_KEY_PRESSED, READ_KEY
and SET_KEYMAP (spec/40_keypad_matrix_scanner.md rules R110 to R122). -/

namespace Sys2Proof.Machine

/-- The four numbers in the fixed order 0 to 3 (R111, R112, R116). -/
def lines4 : List Line4 := [0, 1, 2, 3]

/-- `DriveAll(v)`, stopping at the first failure (R111). -/
def driveAll (v : Level) : Proc Unit := forEach lines4 (fun c => pinWrite (.col c) v)

/-- The reads of `ReadRows` over the rows still to read; `rows` holds those already read (R112). -/
def readRowsFrom : List Line4 → BitVec 4 → Proc (BitVec 4)
  | [], rows => pureP rows
  | r :: rest, rows => andThen (pinRead r) (fun v => readRowsFrom rest (rowsWith rows r v))

/-- `ReadRows()`: all four rows, in order, never cut short but by a failure (R112). -/
def readRows : Proc (BitVec 4) := readRowsFrom lines4 0#4

/-- Step 2 of `Scan` over the columns still to scan (R116): on a one-hot sample the scan stops at once. -/
def scanColumns : List Line4 → Proc (Option Nibble)
  | [] => pureP none
  | c :: rest =>
    andThen (pinWrite (.col c) .high) fun _ =>
    andThen delay fun _ =>
    andThen readRows fun rows s =>
      match decodeOneHot rows with
      | some r => (.ok (some (Keymap.entry s.keymap r c)), s)
      | none => andThen (pinWrite (.col c) .low) (fun _ => scanColumns rest) s

/-- `Scan()` (R116). -/
def scan : Proc (Option Nibble) := andThen (driveAll .low) (fun _ => scanColumns lines4)

/-- `Restore()` over the columns still to restore: every write is attempted, the first failure is remembered (R117). -/
def restoreFrom : List Line4 → Option Kind → State → Option Kind × State
  | [], first, s => (first, s)
  | c :: rest, first, s =>
    match pinWrite (.col c) .high s with
    | (.ok _, s') => restoreFrom rest first s'
    | (.err k, s') => restoreFrom rest (first.or (some k)) s'

/-- `Restore()` (R117). -/
def restore : State → Option Kind × State := restoreFrom lines4 none

/-- What READ_KEY yields from what the scan yielded and what the restoration did: the scan's error wins, then the
restoration's, then the scan's answer (R118, R215). -/
def scanVerdict : Yield (Option Nibble) → Option Kind → Yield (BitVec 5)
  | .err k, _ => .err k
  | .ok _, some k => .err k
  | .ok key, none => .ok (valueKey key)

/-- The body of READ_KEY (R118). -/
def readKeyBody : Proc (BitVec 5) :=
  andThen readRows fun rows s =>
    if rows = 0b0000#4 then (.ok (valueKey none), s)
    else (scanVerdict (scan s).1 (restore (scan s).2).1, (restore (scan s).2).2)

/-- IS_ANY_KEY_PRESSED (R115). -/
def execIsAnyKeyPressed (s : State) : Host.Outcome State Fault Refusal :=
  .next (respond (andThen readRows (fun rows => pureP (valueAny rows)) (s.load (loadOp s.operands 0x03#8))))

/-- READ_KEY (R118). -/
def execReadKey (s : State) : Host.Outcome State Fault Refusal :=
  .next (respond (readKeyBody (s.load (loadOp s.operands 0x04#8))))

/-- The whole table replaced (R122). -/
def State.setKeymap (s : State) (t : Keymap) : State := { s with keymap := t }

/-- SET_KEYMAP (R122): no exchange, so it cannot fail. -/
def execSetKeymap (table : Keymap) (s : State) : Host.Outcome State Fault Refusal :=
  .next (respondOk valueNone ((s.load (loadTable s.operands table)).setKeymap table))

end Sys2Proof.Machine
end

