-- ==== Sys2Proof/Machine/Dispatch.lean ====
section
/-! DEFINITION. One arm per instruction. -/

namespace Sys2Proof.Machine

/-- The meaning of an instruction. -/
def exec (i : Instr) (s : State) : Host.Outcome State Fault Refusal :=
  match i with
  | .init => Sys2Proof.Machine.execInit s
  | .clear => Sys2Proof.Machine.execClear s
  | .xor x y sprite => Sys2Proof.Machine.execXor x y sprite s
  | .isAnyKeyPressed => Sys2Proof.Machine.execIsAnyKeyPressed s
  | .readKey => Sys2Proof.Machine.execReadKey s
  | .setKeymap table => Sys2Proof.Machine.execSetKeymap table s
  | .reserved opcode => Sys2Proof.Machine.execReserved opcode s
  | .response cat status value => Sys2Proof.Machine.execResponse cat status value s
  | .panelSetStartLine => Sys2Proof.Machine.execPanelSetStartLine s
  | .panelSetContrast => Sys2Proof.Machine.execPanelSetContrast s
  | .panelVerticalAddressing => Sys2Proof.Machine.execPanelVerticalAddressing s
  | .panelSetOsc => Sys2Proof.Machine.execPanelSetOsc s
  | .panelSetPrecharge => Sys2Proof.Machine.execPanelSetPrecharge s
  | .panelSetVcom => Sys2Proof.Machine.execPanelSetVcom s
  | .panelSetOffset => Sys2Proof.Machine.execPanelSetOffset s
  | .panelDisplayOn => Sys2Proof.Machine.execPanelDisplayOn s
  | .panelColumnLow n => Sys2Proof.Machine.execPanelColumnLow n s
  | .panelColumnHigh n => Sys2Proof.Machine.execPanelColumnHigh n s
  | .panelData payload => Sys2Proof.Machine.execPanelData payload s

end Sys2Proof.Machine
end

