-- ==== Sys2Proof/Machine/Sequencer.lean ====
section
/-! DEFINITION. The sequencer one primitive exchange at a time (spec/10_state.md rule R33): `accept` starts an operation
and `tick` advances SEQ. R33 asks that this and the operation run as one function agree; that is an obligation. -/

namespace Sys2Proof.Machine

/-- The operation a host descriptor starts, with the operand latches it loads (R25, R82); the response and the panel
transactions start none. -/
def Instr.starts (old : Operands) : Instr → Option (Op × Operands)
  | .init => some (.init, loadOp old 0x00#8)
  | .clear => some (.clear, loadOp old 0x01#8)
  | .xor x y sprite => some (.xor, loadXor old x y sprite)
  | .isAnyKeyPressed => some (.isAnyKeyPressed, loadOp old 0x03#8)
  | .readKey => some (.readKey, loadOp old 0x04#8)
  | .setKeymap t => some (.setKeymap, loadTable old t)
  | .reserved opcode => some (.reserved, loadOp old opcode)
  | .response _ _ _ => none
  | .panelSetStartLine => none
  | .panelSetContrast => none
  | .panelVerticalAddressing => none
  | .panelSetOsc => none
  | .panelSetPrecharge => none
  | .panelSetVcom => none
  | .panelSetOffset => none
  | .panelDisplayOn => none
  | .panelColumnLow _ => none
  | .panelColumnHigh _ => none
  | .panelData _ => none

/-- A descriptor is accepted: the operand latches are loaded and SEQ leaves IDLE for the operation's first position. -/
def accept (i : Instr) (s : State) : State :=
  match Instr.starts s.operands i with
  | some (op, o) => (s.load o).goto op op.first
  | none => s

/-- Go on to `onOk` after an exchange that succeeded, to `onErr` of the kind after one that failed. -/
def branch (op : Op) (r : Yield Unit × State) (onOk : Phase) (onErr : Kind → Phase) : State :=
  match r with
  | (.ok _, s) => s.goto op onOk
  | (.err k, s) => s.goto op (onErr k)

/-- One exchange of the reset pulse (R146). -/
def tickPulse (op : Op) (s : State) : PulseStep → State
  | .first => branch op (pinWrite .rst .high s) (.resetPulse .fall) errPhase
  | .fall => branch op (pinWrite .rst .low s) (.resetPulse .rise) errPhase
  | .rise => branch op (pinWrite .rst .high s) (frameStart (.config .startLine)) errPhase

/-- One exchange of a display transaction (R140, R141). -/
def tickFrame (op : Op) (s : State) (f : FramePos) : TxStep → State
  | .assertCs => branch op (pinWrite .cs .low s) (.frame f .setMode) errPhase
  | .setMode =>
    branch op (pinWrite .dc (s.frameInstr f).mode s) (.frame f .send) (fun k => .frame f (.release (some k)))
  | .send =>
    branch op (busWrite (encode (s.frameInstr f)) s) (.frame f (.release none)) (fun k => .frame f (.release (some k)))
  | .release none => branch op (pinWrite .cs .high s) f.next errPhase
  | .release (some k) => branch op (pinWrite .cs .high s) (errPhase k) (fun _ => errPhase k)

/-- The head of XOR's loop: the next sprite byte is composited, or the loop is over (R190). -/
def tickComposite (op : Op) (s : State) (i : Nat) : State :=
  match s.operands.sprite[i]? with
  | some sb =>
    { s with fb := compositeByte s.fb s.operands.x (rowOf s.operands.y i) sb }.goto op (frameStart (.row i false .lo))
  | none => s.goto op (okPhase xorResult)

/-- After the framebuffer reset: INIT goes on to its last step, CLEAR to its response (R150, R195). -/
def afterZero : Op → Phase
  | .init => frameStart .displayOn
  | .clear => okPhase valueNone
  | .xor => okPhase valueNone
  | .isAnyKeyPressed => okPhase valueNone
  | .readKey => okPhase valueNone
  | .setKeymap => okPhase valueNone
  | .reserved => okPhase valueNone

/-- After the four reads of the pre-check (R115, R118). -/
def afterPreSample (op : Op) (rows : BitVec 4) : Phase :=
  match op with
  | .readKey => if rows = 0b0000#4 then okPhase (valueKey none) else .deenergize 0
  | .isAnyKeyPressed => okPhase (valueAny rows)
  | .init => okPhase (valueAny rows)
  | .clear => okPhase (valueAny rows)
  | .xor => okPhase (valueAny rows)
  | .setKeymap => okPhase (valueAny rows)
  | .reserved => okPhase (valueAny rows)

/-- One read of the pre-check (R112). -/
def tickPreSample (op : Op) (s : State) (r : Line4) (rows : BitVec 4) : State :=
  match pinRead r s with
  | (.err k, s') => s'.goto op (errPhase k)
  | (.ok v, s') =>
    match nextOf r with
    | some q => s'.goto op (.preSample q (rowsWith rows r v))
    | none => s'.goto op (afterPreSample op (rowsWith rows r v))

/-- The scan is left for the restoration (R117). -/
def toRestore (e : ScanEnd) : Phase := .restore 0 e none

/-- A failure inside the scan leaves it for the restoration (R117, R118). -/
def scanFailed (k : Kind) : Phase := toRestore (.failed k)

/-- Scan step 1, one column (R111, R116). -/
def tickDeenergize (op : Op) (s : State) (c : Line4) : State :=
  match nextOf c with
  | some d => branch op (pinWrite (.col c) .low s) (.deenergize d) scanFailed
  | none => branch op (pinWrite (.col c) .low s) (.energize 0) scanFailed

/-- After the four reads under column `c`: a one-hot sample ends the scan with the key (R113, R114, R116). -/
def afterSample (s : State) (c : Line4) (rows : BitVec 4) : Phase :=
  match decodeOneHot rows with
  | some r => toRestore (.key (Keymap.entry s.keymap r c))
  | none => .backLow c

/-- Scan step 2c, one row (R112, R116). -/
def tickSample (op : Op) (s : State) (c r : Line4) (rows : BitVec 4) : State :=
  match pinRead r s with
  | (.err k, s') => s'.goto op (scanFailed k)
  | (.ok v, s') =>
    match nextOf r with
    | some q => s'.goto op (.sample c q (rowsWith rows r v))
    | none => s'.goto op (afterSample s' c (rowsWith rows r v))

/-- Scan step 2d (R116). -/
def tickBackLow (op : Op) (s : State) (c : Line4) : State :=
  match nextOf c with
  | some d => branch op (pinWrite (.col c) .low s) (.energize d) scanFailed
  | none => branch op (pinWrite (.col c) .low s) (toRestore .noKey) scanFailed

/-- READ_KEY's outcome once the restoration is over (R118, R215). -/
def afterRestore : ScanEnd → Option Kind → Phase
  | .failed k, _ => errPhase k
  | .noKey, some k => errPhase k
  | .noKey, none => okPhase (valueKey none)
  | .key _, some k => errPhase k
  | .key key, none => okPhase (valueKey (some key))

/-- One write of the restoration (R117). -/
def tickRestore (op : Op) (s : State) (c : Line4) (e : ScanEnd) (first : Option Kind) : State :=
  match nextOf c with
  | some d =>
    branch op (pinWrite (.col c) .high s) (.restore d e first) (fun k => .restore d e (first.or (some k)))
  | none =>
    branch op (pinWrite (.col c) .high s) (afterRestore e first) (fun k => afterRestore e (first.or (some k)))

/-- One advance of SEQ from a busy position (R33): one primitive exchange, or, where a position has none, the
framebuffer update, the framebuffer reset, the keymap write or the response (assumption log 2). -/
def tickAt (op : Op) (phase : Phase) (s : State) : State :=
  match phase with
  | .resetPulse p => tickPulse op s p
  | .frame f t => tickFrame op s f t
  | .composite i => tickComposite op s i
  | .zeroFb => s.zeroFb.goto op (afterZero op)
  | .preSample r rows => tickPreSample op s r rows
  | .deenergize c => tickDeenergize op s c
  | .energize c => branch op (pinWrite (.col c) .high s) (.settle c) scanFailed
  | .settle c => branch op (delay s) (.sample c 0 0#4) scanFailed
  | .sample c r rows => tickSample op s c r rows
  | .backLow c => tickBackLow op s c
  | .restore c e first => tickRestore op s c e first
  | .loadKeymap => (s.setKeymap s.operands.table).goto op (okPhase valueNone)
  | .respond cat status value => writeResponse cat status value s

/-- One advance of the sequencer; at IDLE it stands still (R33). -/
def tick (s : State) : State :=
  match s.seq with
  | .idle => s
  | .busy op phase => tickAt op phase s

/-- `n` advances of the sequencer. -/
def ticks : Nat → State → State
  | 0, s => s
  | n + 1, s => ticks n (tick s)

end Sys2Proof.Machine
end

