-- ==== Sys2Proof/Machine/Step.lean ====
section
/-! DEFINITION. One step of the machine, and where its next instruction is placed (spec/30_encoding.md rules R80, R89;
spec/10_state.md rule R33). -/

namespace Sys2Proof.Machine

/-- One step. At IDLE the next descriptor of the command port is taken and its operation run as one function; while no
whole descriptor is there the block waits and nothing changes (R80, R89). At BUSY, where an operation has been left
part-way, the panel transaction or the response the sequencer stands before is executed, and anywhere else the
sequencer makes its one exchange (R33, assumption log 2). -/
def step (s : State) : Host.Outcome State Fault Refusal :=
  match s.seq with
  | .idle =>
    match decode .hostDescriptor s.cmdIn with
    | .done i rest => exec i { s with cmdIn := rest }
    | .incomplete => .next s
    | .rejected _ => .next s
  | .busy op phase =>
    if phaseLegal s.operands op phase then
      match s.pending with
      | some i => exec i s
      | none => .next (tickAt op phase s)
    else .fault .noSuchPosition

/-- The operation a state's sequencer is running, or, at IDLE, the one that has nothing but its response. -/
def State.opOrReserved (s : State) : Op :=
  match s.seq with
  | .idle => .reserved
  | .busy op _ => op

/-- The state with the instruction of an opcode-table word placed where `step` finds its next one. The response goes to
the sequencer, which then stands before it; everything else is a host descriptor, whose own bytes, no more, go to the
front of the command port of an idle block (assumption log 12 and 13). -/
def State.withFetchWord (s : State) (nbits w : Nat) : State :=
  match decodeTableWord nbits w with
  | some (.response cat status value) => { s with seq := .busy s.opOrReserved (.respond cat status value) }
  | _ => { s with seq := .idle, cmdIn := (tableBytes nbits w).2 ++ s.cmdIn }

end Sys2Proof.Machine
end

