-- ==== Sys2Proof/Machine/Devices.lean ====
section
/-! DEFINITION. The spec's INFORMATIVE models of the two external devices (spec/20_memory.md rules R66 and R67), as
readings of a trace. They are no state of the block and no operation looks at them (R29, assumption log 17). -/

namespace Sys2Proof.Machine

/-- The (row, column) positions whose keys are held down (R66). -/
abbrev HeldKeys := List (Line4 × Line4)

/-- What row input `r` reads when the column lines stand at `cols`: high exactly when a held key of the row lies in a
column that is high (R66). -/
def matrixLevel (held : HeldKeys) (cols : Quad Level) (r : Line4) : Level :=
  if held.any (fun k => decide (k.1 = r) && decide (cols.get k.2 = .high)) then .high else .low

/-- The trace, oldest event first, read what the ideal matrix shows while the columns move from `cols` as the trace
drives them (R66). After a failed column write the matrix goes on with the level the line had before: DESIGN CHOICE of
this reading, since R24 leaves that level open and the latch itself takes a free one (assumption log 17). -/
def matrixAgrees (held : HeldKeys) : Quad Level → List Event → Bool
  | _, [] => true
  | cols, .wrote (.col c) v :: rest => matrixAgrees held (cols.set c v) rest
  | cols, .read r v :: rest => decide (v = matrixLevel held cols r) && matrixAgrees held cols rest
  | cols, _ :: rest => matrixAgrees held cols rest

/-- The reference panel (R67): its store by address `16 * column + page`, newest write first, the two nibbles of its
column address, its page pointer, the lines it sees, whether it is powered on, and how many events it has seen. -/
structure Panel where
  store : List Host.Cell
  colLo : Nibble
  colHi : Nibble
  page : Nat
  cs : Level
  dc : Level
  on : Bool
  seen : Nat
deriving DecidableEq, Repr

/-- `PANEL[c][p]`. -/
def Panel.byte (p : Panel) (c page : Nat) : Byte := Memory.read p.store (16 * c + page)

/-- Column `c` of the panel, page 0 first. -/
def Panel.column (p : Panel) (c : Nat) : List Byte := (List.range 16).map (p.byte c)

/-- A data byte is stored at the pointer and the page advances modulo 16 (R67). -/
def Panel.dataByte (p : Panel) (d : Byte) : Panel :=
  { p with store := (16 * (16 * p.colHi.toNat + p.colLo.toNat) + p.page, d) :: p.store, page := (p.page + 1) % 16 }

/-- A command transaction moves the column address or powers the panel on; the configuration commands change nothing
the reference panel holds (R67). -/
def Panel.command (p : Panel) (bytes : List Byte) : Panel :=
  match decodeFrame .low bytes with
  | .done (.panelColumnLow n) _ => { p with colLo := n }
  | .done (.panelColumnHigh n) _ => { p with colHi := n }
  | .done .panelDisplayOn _ => { p with on := true }
  | _ => p

/-- Bytes on the channel, taken while chip-select is low, as commands or as data by the mode-select line (R24, R140). -/
def Panel.bytes (p : Panel) (bytes : List Byte) : Panel :=
  match p.cs, p.dc with
  | .high, _ => p
  | .low, .low => p.command bytes
  | .low, .high => bytes.foldl Panel.dataByte p

/-- A control line reaches the panel; the falling edge of the reset line sets the page to 0 (R67). -/
def Panel.line (p : Panel) : Line → Level → Panel
  | .cs, v => { p with cs := v }
  | .dc, v => { p with dc := v }
  | .rst, .low => { p with page := 0 }
  | .rst, .high => p
  | .col _, _ => p

/-- One event reaches the panel. Of a failed bus write any number of bytes may arrive (R141 case c); a failed write of a
control line leaves it at any level (R24). Nothing else is lost or disturbed: after a failed operation the store, the
column address, the page and the power state are what the bytes that arrived made of them. That is a DESIGN CHOICE of this
reading, since R254, U3 and U4 allow the panel any hidden state after a failed INIT and any contents of the column being
written after a failed CLEAR or XOR (assumption log 17). -/
def Panel.event (p : Panel) (e : Event) : Panel :=
  match e with
  | .wrote l v => { p.line l v with seen := p.seen + 1 }
  | .writeFailed l _ => { p.line l (Config.freeLevel p.seen) with seen := p.seen + 1 }
  | .sent bytes => { p.bytes bytes with seen := p.seen + 1 }
  | .sendFailed bytes => { p.bytes (bytes.take (Config.freeDelivered p.seen)) with seen := p.seen + 1 }
  | .read _ _ => { p with seen := p.seen + 1 }
  | .readFailed _ => { p with seen := p.seen + 1 }
  | .waited _ => { p with seen := p.seen + 1 }
  | .waitFailed _ => { p with seen := p.seen + 1 }

/-- The panel after a trace, oldest event first. -/
def Panel.replay (p : Panel) (events : List Event) : Panel := events.foldl Panel.event p

/-- The panel shows the framebuffer: every row's two physical columns hold the encoding of the row (R62). -/
abbrev Panel.shows (p : Panel) (m : Memory) : Prop :=
  ∀ r < 32, p.column (physCol r) = encodeRow m r ∧ p.column (physCol r + 1) = encodeRow m r

/-- The panel stands between transactions, ready for the next: page 0 (R67) and chip-select released (R34). -/
abbrev Panel.ready (p : Panel) : Prop := p.page = 0 ∧ p.cs = .high

end Sys2Proof.Machine
end

