-- ==== Sys2Proof/Safety.lean ====
section
/-! DEFINITION. The terms claims are stated in: the answers to come, the trace of a successful operation, what a
completed operation leaves, and the invariants of the block (spec/10_state.md rules R33, R34; spec/60_exceptions.md rules
R213 to R216). -/

namespace Sys2Proof.Machine

/-! The answers the environment will give. -/

/-- The answer to the exchange that is `k` exchanges away (the next one is 0). -/
def State.answerAt (s : State) (k : Nat) : Answer :=
  match s.env[k]? with
  | some a => a
  | none => Config.envAnswer (s.log.length + k)

/-- The next `n` exchanges all succeed. -/
abbrev State.AllSucceed (s : State) (n : Nat) : Prop := ∀ k < n, s.answerAt k ≠ .fails

/-- Exchange `k` from now is the first that fails. -/
abbrev State.FirstFailureAt (s : State) (k : Nat) : Prop := s.AllSucceed k ∧ s.answerAt k = .fails

/-- The level a `PinRead` made `k` exchanges from now returns. -/
def State.levelAt (s : State) (k : Nat) : Level :=
  match s.answerAt k with
  | .succeeds v => v
  | .fails => .low

/-- The four row samples of a `ReadRows` that begins `k` exchanges from now (R94, R112). -/
def State.sampleAt (s : State) (k : Nat) : BitVec 4 :=
  rowsWith (rowsWith (rowsWith (rowsWith 0#4 0 (s.levelAt k)) 1 (s.levelAt (k + 1))) 2 (s.levelAt (k + 2))) 3
    (s.levelAt (k + 3))

/-! Traces, oldest event first. -/

/-- The trace (R8). -/
def State.trace (s : State) : List Event := s.log.reverse

/-- The kind of failure a trace event records, if it is a failed exchange (R8, R211). -/
def Event.failure : Event → Option Kind
  | .wrote _ _ => none
  | .writeFailed l _ => some l.kind
  | .read _ _ => none
  | .readFailed _ => some .pinRead
  | .sent _ => none
  | .sendFailed _ => some .busWrite
  | .waited _ => none
  | .waitFailed _ => some .delay

/-- The first failure of a trace (R215). -/
def firstFailure (events : List Event) : Option Kind := events.findSome? Event.failure

/-- A successful transaction (R140). -/
def frameEvents (mode : Level) (bytes : List Byte) : List Event :=
  [.wrote .cs .low, .wrote .dc mode, .sent bytes, .wrote .cs .high]

/-- A successful `WriteColumn(a, P)` (R145, R147). -/
def columnEvents (payload : List Byte) (a : Nat) : List Event :=
  frameEvents .low [Config.colLoCmd (addrLo a)] ++ frameEvents .low [Config.colHiCmd (addrHi a)] ++
  frameEvents .high payload

/-- A successful rendering of a row with a payload (R176). -/
def rowEvents (row : Nat) (payload : List Byte) : List Event :=
  columnEvents payload (physCol row) ++ columnEvents payload (physCol row + 1)

/-- A successful XOR from sprite byte `i` on: each row is rendered as it stands once its byte is composited (R190). -/
def xorEvents (x y : Byte) : Nat → List Byte → Memory → List Event
  | _, [], _ => []
  | i, sb :: rest, m =>
    rowEvents (rowOf y i) (encodeRow (compositeByte m x (rowOf y i) sb) (rowOf y i)) ++
      xorEvents x y (i + 1) rest (compositeByte m x (rowOf y i) sb)

/-- A successful CLEAR (R195). -/
def clearEvents : List Event := (List.range 64).flatMap (columnEvents zeroPayload)

/-- A successful reset pulse (R146). -/
def pulseEvents : List Event := [.wrote .rst .high, .wrote .rst .low, .wrote .rst .high]

/-- Successful INIT steps 2 to 8 (R150). -/
def configEvents : List Event :=
  frameEvents .low [Config.cmdStartLine, 0x00#8] ++ frameEvents .low [Config.cmdContrast, 0x80#8] ++
  frameEvents .low [Config.cmdVerticalMode] ++ frameEvents .low [Config.cmdOsc, 0x41#8] ++
  frameEvents .low [Config.cmdPrecharge, 0x22#8] ++ frameEvents .low [Config.cmdVcom, 0x35#8] ++
  frameEvents .low [Config.cmdOffset, 0x60#8]

/-- A successful INIT (R150). -/
def initEvents : List Event :=
  pulseEvents ++ configEvents ++ clearEvents ++ frameEvents .low [Config.cmdDisplayOn]

/-- A successful `ReadRows` that begins `k` exchanges from now (R112). -/
def readEvents (s : State) (k : Nat) : List Event :=
  [.read 0 (s.levelAt k), .read 1 (s.levelAt (k + 1)), .read 2 (s.levelAt (k + 2)), .read 3 (s.levelAt (k + 3))]

/-- All four columns driven to a level, in order (R111, R117). -/
def driveEvents (v : Level) : List Event := [.wrote (.col 0) v, .wrote (.col 1) v, .wrote (.col 2) v, .wrote (.col 3) v]

/-- Where the four reads under column `c` begin in a READ_KEY whose earlier columns gave no key: after the pre-check, the
four writes of step 1, seven exchanges for each earlier column, this column's write and delay (R121). -/
def scanReadAt (c : Nat) : Nat := 10 + 7 * c

/-- Steps 2a to 2d of a column that gives no key (R116). -/
def missEvents (s : State) (c : Line4) : List Event :=
  [.wrote (.col c) .high, .waited 500] ++ readEvents s (scanReadAt c) ++ [.wrote (.col c) .low]

/-- Steps 2a to 2c of the column that gives the key (R116). -/
def hitEvents (s : State) (c : Line4) : List Event :=
  [.wrote (.col c) .high, .waited 500] ++ readEvents s (scanReadAt c)

/-- The columns before `c`, in order. -/
def columnsBefore (c : Nat) : List Line4 := lines4.take c

/-- A READ_KEY that resolves a key under column `c` (R116 to R118). -/
def hitTrace (s : State) (c : Line4) : List Event :=
  readEvents s 0 ++ driveEvents .low ++ (columnsBefore c).flatMap (missEvents s) ++ hitEvents s c ++ driveEvents .high

/-- A READ_KEY that scans all four columns and resolves none (R116 to R118). -/
def missTrace (s : State) : List Event :=
  readEvents s 0 ++ driveEvents .low ++ (columnsBefore 4).flatMap (missEvents s) ++ driveEvents .high

/-- The trace of a display operation all of whose exchanges succeed (R150, R190, R195); the other instructions are no
display operations and have none here. -/
def displayTrace (s : State) : Instr → List Event
  | .init => initEvents
  | .clear => clearEvents
  | .xor x y sprite => xorEvents x y 0 sprite s.fb
  | _ => []

/-- The same exchange, failed (R9). -/
def Event.failed : Event → Event
  | .wrote l v => .writeFailed l v
  | .read r _ => .readFailed r
  | .sent bytes => .sendFailed bytes
  | .waited us => .waitFailed us
  | e => e

/-- The exchange lies in the try part of a transaction, so that its failure is followed by the de-asserting write
(R140, R214). -/
def Event.inTryPart : Event → Bool
  | .wrote .dc _ => true
  | .sent _ => true
  | _ => false

/-- The de-asserting write made `k` exchanges from now, as the environment answers it (R140). -/
def releaseEvent (s : State) (k : Nat) : Event :=
  if s.answerAt k = .fails then .writeFailed .cs .high else .wrote .cs .high

/-- The restoring write of column `c` made `k` exchanges from now, as the environment answers it (R117). -/
def restoreEvent (s : State) (k : Nat) (c : Line4) : Event :=
  if s.answerAt k = .fails then .writeFailed (.col c) .high else .wrote (.col c) .high

/-- The kind of error a failing exchange of a display transaction gives, by its place in the four exchanges (R140). -/
def frameKind (place : Nat) : Kind :=
  if place = 1 then .modeSelect else if place = 2 then .busWrite else .chipSelect

/-- The kind of error exchange `k` of INIT gives: the reset pulse comes first (R150). -/
def initKind (k : Nat) : Kind := if k < 3 then .resetLine else frameKind ((k - 3) % 4)

/-- A sprite byte placed at logical column `X` lights logical column `px`: its eight bits lie on eight consecutive
pixels from `X mod 64`, wrapping from pixel 63 to pixel 0, the leftmost the most significant (R52, R193). -/
def spriteLights (x sb : Byte) (px : Nat) : Bool :=
  decide ((px + 64 - x.toNat % 64) % 64 < 8) && sb.getLsbD (7 - (px + 64 - x.toNat % 64) % 64)

/-- Whether a sprite from its byte `i` on toggles pixel `px` of row `r` an odd number of times (R190). -/
def spriteToggles (x y : Byte) (px r : Nat) : Nat → List Byte → Bool
  | _, [] => false
  | i, sb :: rest => (decide (rowOf y i = r) && spriteLights x sb px).xor (spriteToggles x y px r (i + 1) rest)

/-- Which operation can report which error (R213). -/
def mayReport : Instr → Kind → Bool
  | .init, .busWrite => true
  | .init, .chipSelect => true
  | .init, .modeSelect => true
  | .init, .resetLine => true
  | .clear, .busWrite => true
  | .clear, .chipSelect => true
  | .clear, .modeSelect => true
  | .xor _ _ sprite, .busWrite => decide (sprite ≠ [])
  | .xor _ _ sprite, .chipSelect => decide (sprite ≠ [])
  | .xor _ _ sprite, .modeSelect => decide (sprite ≠ [])
  | .isAnyKeyPressed, .pinRead => true
  | .readKey, .pinWrite => true
  | .readKey, .pinRead => true
  | .readKey, .delay => true
  | .reserved _, .illegalOp => true
  | _, _ => false

/-- The most exchanges an operation makes (R198). -/
def exchangeBound : Instr → Nat
  | .init => 803
  | .clear => 768
  | .xor _ _ sprite => 24 * sprite.length
  | .isAnyKeyPressed => 4
  | .readKey => 40
  | _ => 0

/-- The key the scan resolves when the ideal matrix holds `held`: the first column in which exactly one row's key is held
(R120). -/
def resolvedKey (held : HeldKeys) : Option (Line4 × Line4) :=
  lines4.findSome? fun c =>
    match lines4.filter (fun r => decide ((r, c) ∈ held)) with
    | [r] => some (r, c)
    | _ => none

/-! What an operation leaves. -/

/-- `t` is `s` after an operation whose exchanges left `events` and which responded with a status and a value: the trace
has grown by them, as many answers are used up, the result register and the response say the status, its category and the
value (R26, R88, R212), and SEQ is IDLE. It says nothing of FB, KEYMAP, the latches or the operand latches. -/
def Responded (s t : State) (events : List Event) (status : Nibble) (value : BitVec 5) : Prop :=
  t.log = events.reverse ++ s.log ∧ t.env = s.env.drop events.length ∧ t.cmdIn = s.cmdIn ∧
  t.result = ⟨status, value, true⟩ ∧
  t.responses = (responseByte0 (categoryOf status) status, responseByte1 value) :: s.responses ∧ t.seq = .idle

/-- `t` is `s` after one panel transaction all of whose four exchanges succeeded: the trace has grown by them,
chip-select is released and mode-select stands at the transaction's level (R140); if the sequencer stood before a
transaction it stands behind it, and at IDLE it stays (both the model's choice, assumption log 21); nothing else has
changed. -/
def Transacted (s t : State) (mode : Level) (bytes : List Byte) : Prop :=
  t.log = (frameEvents mode bytes).reverse ++ s.log ∧ t.env = s.env.drop 4 ∧
  t.out = { s.out with cs := .high, dc := mode } ∧
  t.fb = s.fb ∧ t.keymap = s.keymap ∧ t.operands = s.operands ∧ t.result = s.result ∧ t.cmdIn = s.cmdIn ∧
  t.responses = s.responses ∧
  (∀ op f, s.seq = .busy op (frameStart f) → t.seq = .busy op f.next) ∧ (s.seq = .idle → t.seq = .idle)

/-- The operation that turned `s` into `t` left exactly the trace `events`, oldest first. -/
abbrev NewEvents (s t : State) (events : List Event) : Prop := t.log = events.reverse ++ s.log

/-! Invariants. -/

/-- The framebuffer is in its canonical form and SEQ stands at a position its operation has (R21, R33). -/
abbrev State.Inv (s : State) : Prop := Memory.wf s.fb = true ∧ s.seqLegal = true

/-- No write of a line of the given error kind has failed since reset (R34). -/
abbrev State.NoFailure (s : State) (k : Kind) : Prop := ∀ e ∈ s.log, Event.failure e ≠ some k

/-- The level of chip-select at a sequencer position: low inside a transaction, else high (R34, R140). -/
def csAt : Seq → Level
  | .busy _ (.frame _ .setMode) => .low
  | .busy _ (.frame _ .send) => .low
  | .busy _ (.frame _ (.release _)) => .low
  | _ => .high

/-- What the columns must be at a sequencer position: in step 1 those before `c` are low and the others high, before
column `c` is energized all are low, under it only `c` is high, in the restoration those before `c` are high, and
everywhere else all are high (R34, R116, R117). -/
def colsAt (cols : Quad Level) : Seq → Prop
  | .busy .readKey (.deenergize c) => ∀ d, cols.get d = if d < c then Level.low else Level.high
  | .busy .readKey (.energize _) => ∀ d, cols.get d = Level.low
  | .busy .readKey (.settle c) => ∀ d, cols.get d = if d = c then Level.high else Level.low
  | .busy .readKey (.sample c _ _) => ∀ d, cols.get d = if d = c then Level.high else Level.low
  | .busy .readKey (.backLow c) => ∀ d, cols.get d = if d = c then Level.high else Level.low
  | .busy .readKey (.restore c _ _) => ∀ d, d < c → cols.get d = Level.high
  | _ => ∀ d, cols.get d = Level.high

/-- The lines stand where R34 promises as long as no chip-select failure, or no column failure, has occurred. -/
def State.LinesInv (s : State) : Prop :=
  (s.NoFailure .chipSelect → s.out.cs = csAt s.seq) ∧ (s.NoFailure .pinWrite → colsAt s.out.cols s.seq)

end Sys2Proof.Machine
end

