-- ==== Sys2Proof/Certificates/Slice0/Obligations.lean ====
section
/-! DEFINITION. The statements for the provers. No statement rests on a free value (`Config.freeLevel`,
`Config.freeOperands`, `Config.envAnswer`, `Config.freeDelivered`) or on an OPEN opcode: each holds for every value of
them. Where a rule of the spec is marked there as its own decision or as derived, the docstring says so; D1 to D34 are the
decisions of 92_eei_decisions.md, all of which the model follows (assumption log 11). -/

open Sys2Proof Sys2Proof.Machine

/-! ## Encodings -/

/-- Every well-formed host descriptor decodes to its instruction, with every operand, and leaves exactly the bytes after
it (30_encoding.md sections 1; the encoding is the spec's decision D2). -/
def Obligations.DescriptorsDecodeAsEncoded : Prop :=
  ∀ (i : Instr) (rest : List Byte), i.interface = .hostDescriptor → i.wellFormed = true →
    decode .hostDescriptor (encode i ++ rest) = .done i rest

/-- Whatever the command port decodes is a well-formed descriptor and the bytes taken are its encoding, so every byte
sequence has at most one reading (30_encoding.md section 1). -/
def Obligations.DecodedDescriptorsAreTheirEncodings : Prop :=
  ∀ (bytes : List Byte) (i : Instr) (rest : List Byte), decode .hostDescriptor bytes = .done i rest →
    i.interface = .hostDescriptor ∧ i.wellFormed = true ∧ bytes = encode i ++ rest

/-- The response's two bytes carry CAT, STATUS and VALUE without loss, and nothing else decodes to a response
(30_encoding.md section 2; the layout is the spec's decision D3). -/
def Obligations.ResponsesDecodeAsEncoded : Prop :=
  (∀ (cat : BitVec 2) (status : Nibble) (value : BitVec 5) (rest : List Byte),
    decode .hostResponse (encode (.response cat status value) ++ rest) = .done (.response cat status value) rest) ∧
  (∀ (bytes : List Byte) (i : Instr) (rest : List Byte), decode .hostResponse bytes = .done i rest →
    i.interface = .hostResponse ∧ bytes = encode i ++ rest)

/-- If the OPEN single-byte commands can be told apart, every well-formed panel transaction is read back off the wire as
itself (30_encoding.md section 4). -/
def Obligations.PanelTransactionsDecodeAsEncoded : Prop :=
  Config.WireDistinct → ∀ (i : Instr) (mode : Level), i.interface = .panelWire mode → i.wellFormed = true →
    decode (.panelWire mode) (encode i) = .done i []

/-- A descriptor word for each of the seven host rows, read off the encodings of 30_encoding.md sections 1 and 3, decodes
to the instruction it stands for. -/
def Obligations.SpecDescriptorsDecode : Prop :=
  decode .hostDescriptor [0x00#8] = .done .init [] ∧
  decode .hostDescriptor [0x01#8] = .done .clear [] ∧
  decode .hostDescriptor [0x02#8, 0x3C#8, 0x05#8, 0x01#8, 0xFF#8] = .done (.xor 0x3C#8 0x05#8 [0xFF#8]) [] ∧
  decode .hostDescriptor [0x03#8] = .done .isAnyKeyPressed [] ∧
  decode .hostDescriptor [0x04#8] = .done .readKey [] ∧
  decode .hostDescriptor [0x05#8, 0x12#8, 0x3F#8, 0x45#8, 0x6E#8, 0x78#8, 0x9D#8, 0xA0#8, 0xBC#8] =
    .done (.setKeymap defaultKeymap) [] ∧
  decode .hostDescriptor [0x06#8, 0x02#8] = .done (.reserved 0x06#8) [0x02#8]

/-- The category of a status (R212): success, keypad failed, screen failed, illegal operation. -/
def Obligations.StatusCategories : Prop :=
  categoryOf 0x0#4 = 0b00#2 ∧
  (∀ k : Kind, categoryOf (statusOf k) =
    match k with
    | .pinWrite => 0b01#2
    | .pinRead => 0b01#2
    | .delay => 0b01#2
    | .busWrite => 0b10#2
    | .chipSelect => 0b10#2
    | .modeSelect => 0b10#2
    | .resetLine => 0b10#2
    | .illegalOp => 0b11#2)

/-! ## Steps -/

/-- When the bytes at the command port of an idle block decode to an instruction, the step takes exactly those bytes and
is `exec` of that instruction. That one step runs the whole operation as one function is the model's DESIGN CHOICE, one of
the two views that 10_state.md section 10 allows (assumption log 2). -/
def Obligations.StepRunsTheDescriptor : Prop :=
  ∀ (s : State) (i : Instr) (rest : List Byte), s.seq = .idle → decode .hostDescriptor s.cmdIn = .done i rest →
    step s = exec i { s with cmdIn := rest }

/-- When the sequencer of a busy block stands, at a position its operation has, before a panel transaction or the
response, the step is `exec` of that instruction; before anything else it is one advance of the sequencer; at a position
the operation does not have the machine stops by name (10_state.md section 10; the granularity of a step and the named
stop are the model's DESIGN CHOICE, assumption log 2 and 16). -/
def Obligations.StepRunsThePendingInstruction : Prop :=
  ∀ (s : State) (op : Op) (phase : Phase), s.seq = .busy op phase →
    (phaseLegal s.operands op phase = true → ∀ i, s.pending = some i → step s = exec i s) ∧
    (phaseLegal s.operands op phase = true → s.pending = none → step s = .next (tick s)) ∧
    (phaseLegal s.operands op phase = false → step s = .fault .noSuchPosition)

/-- While only part of a descriptor has arrived the block waits and nothing changes (30_encoding.md section 1, the
sentence on a host that stops part-way; that the step then answers the same state is DEDUCED, assumption log 14). -/
def Obligations.PartOfADescriptorWaits : Prop :=
  ∀ (s : State) (i : Instr) (k : Nat), s.seq = .idle → i.interface = .hostDescriptor → i.wellFormed = true →
    k < (encode i).length → s.cmdIn = (encode i).take k → step s = .next s

/-- A reserved opcode byte at the command port is consumed as a one-byte descriptor, makes no exchange, changes neither FB
nor KEYMAP nor a latch, and is answered C8 00 (30_encoding.md, reserved and illegal encodings; the spec's decision D5). -/
def Obligations.ReservedOpcodeIsAnswered : Prop :=
  ∀ (s : State) (opcode : Byte) (rest : List Byte), s.seq = .idle → 6 ≤ opcode.toNat → s.cmdIn = opcode :: rest →
    ∃ t, step s = .next t ∧ Responded { s with cmdIn := rest } t [] 0x8#4 0#5 ∧
      t.responses.head? = some (0xC8#8, 0x00#8) ∧ t.fb = s.fb ∧ t.keymap = s.keymap ∧ t.out = s.out

/-- The sequencer advanced one position at a time and the operation run as one function agree (10_state.md section 10:
"the two must agree"; SEQ is the spec's decision D28): from the accepted descriptor some number of advances gives exactly
the state `exec` answers. -/
def Obligations.TicksAgreeWithExec : Prop :=
  ∀ (i : Instr) (s : State), i.interface = .hostDescriptor → ∃ n, exec i s = .next (ticks n (accept i s))

/-- The machine's own steps from the accepted descriptor, each a panel transaction, a response or one exchange, reach
exactly the state `exec` answers (10_state.md section 10; SEQ is the spec's decision D28). -/
def Obligations.StepsAgreeWithExec : Prop :=
  ∀ (i : Instr) (s : State), i.interface = .hostDescriptor → i.wellFormed = true →
    ∃ n, Host.Core.run Sys2Proof.core n (accept i s) = exec i s

/-- Every step keeps the framebuffer in its canonical form and the sequencer at a position its operation has
(10_state.md sections 3 and 10). -/
def Obligations.StepKeepsInv : Prop := ∀ (s t : State), s.Inv → step s = .next t → t.Inv

/-- Reset has the invariant of `StepKeepsInv`. -/
def Obligations.ResetHasInv : Prop := State.reset.Inv

/-- No step from a state with the invariant stops: every descriptor, well-formed or reserved or not yet whole, and every
failure of the environment, has a next state (60_exceptions.md section 1). -/
def Obligations.StepNeverStops : Prop := ∀ s : State, s.Inv → ∃ t, step s = .next t

/-- Every step keeps the lines where they belong: as long as no chip-select write has failed, chip-select is low inside a
transaction and high everywhere else, and as long as no column write has failed, all four columns are high whenever the
block is idle (10_state.md section 11, which the spec marks as derived). -/
def Obligations.StepKeepsLines : Prop := ∀ (s t : State), s.LinesInv → step s = .next t → t.LinesInv

/-- Reset has the invariant of `StepKeepsLines`. -/
def Obligations.ResetHasLines : Prop := State.reset.LinesInv

/-- Reset leaves every framebuffer byte 0x00, the default keymap, the columns and chip-select high, SEQ idle, and a result
register of zeros that is not valid; it makes no exchange (10_state.md section 13, 70_reset_and_hazards.md section 1;
`OUT.DC`, `OUT.RST` and the operand latches are unspecified there and nothing is said of them). -/
def Obligations.ResetState : Prop :=
  (∀ r < 32, ∀ b < 8, State.reset.fbByte r b = 0x00#8) ∧ State.reset.keymap = defaultKeymap ∧
  State.reset.out.cs = .high ∧ (∀ c, State.reset.out.cols.get c = .high) ∧ State.reset.seq = .idle ∧
  State.reset.result = ⟨0#4, 0#5, false⟩ ∧ State.reset.log = []

/-- The default keymap, entry by entry, `[row][column]` (R31). -/
def Obligations.DefaultKeymapEntries : Prop :=
  (lines4.map fun r => lines4.map fun c => (Keymap.entry State.reset.keymap r c).toNat) =
    [[0x1, 0x2, 0x3, 0xF], [0x4, 0x5, 0x6, 0xE], [0x7, 0x8, 0x9, 0xD], [0xA, 0x0, 0xB, 0xC]]

/-! ## The framebuffer compositor -/

/-- One sprite byte at an aligned column is exclusive-ored into one framebuffer byte, at any other column its two pieces
into two adjacent bytes of the same row, wrapping from byte 7 to byte 0; no other byte changes (R54, R55). -/
def Obligations.SpriteByteIsXoredIntoItsBytes : Prop :=
  ∀ (m : Memory) (x sb : Byte) (row : Nat), Memory.wf m = true → row < 32 →
    colOffset x = x.toNat % 8 ∧ byteIndex x = x.toNat % 64 / 8 ∧ nextByteIndex x ≠ byteIndex x ∧
    ∀ r < 32, ∀ b < 8,
      fbRead (compositeByte m x row sb) r b =
        if x.toNat % 8 = 0 then
          (if r = row ∧ b = x.toNat % 64 / 8 then fbRead m r b ^^^ sb else fbRead m r b)
        else if r = row ∧ b = x.toNat % 64 / 8 then fbRead m r b ^^^ (sb >>> (x.toNat % 8))
        else if r = row ∧ b = (x.toNat % 64 / 8 + 1) % 8 then fbRead m r b ^^^ (sb <<< (8 - x.toNat % 8))
        else fbRead m r b

/-- The row of sprite byte `i` is `(Y + i) mod 32` of the mathematical sum, and truncating the sum to eight bits first
gives the same row (20_memory.md section 2 on the row index, the spec's decision D7; 43_framebuffer_compositor_xor.md
section 1 on XOR's arithmetic, which the spec marks as derived). -/
def Obligations.RowsWrapAt32 : Prop :=
  ∀ (y : Byte) (i : Nat), rowOf y i = (y.toNat + i) % 32 ∧ rowOf y i = (y + BitVec.ofNat 8 i).toNat % 32

/-- In pixels: a whole sprite toggles exactly the pixels its lit bits cover, each as often as it is covered, with pixel 64
wrapping to 0 and row 32 to 0 (20_memory.md section 2; 43_framebuffer_compositor_xor.md section 1; the bit order and the
arithmetic are marked in the spec as derived, the row wrap as its decision D7). -/
def Obligations.SpriteTogglesItsPixels : Prop :=
  ∀ (m : Memory) (x y : Byte) (sprite : List Byte) (px r : Nat), Memory.wf m = true → px < 64 → r < 32 →
    fbPixel (compositeFrom x y 0 sprite m) px r = (fbPixel m px r).xor (spriteToggles x y px r 0 sprite)

/-- XOR completes: when its `24 N` exchanges succeed the sprite is composited, each row is rendered as it stands after its
byte, the response is 00 01, and nothing else changes but chip-select and mode-select (43_framebuffer_compositor_xor.md
section 1; XOR_RESULT = 1 is the spec's decision D8, the row wrap D7, the order of the exchanges D9, D11 and D12, the
payload's layout D16, the response's D3). -/
def Obligations.XorCompletes : Prop :=
  ∀ (s : State) (x y : Byte) (sprite : List Byte), s.AllSucceed (24 * sprite.length) →
    ∃ t, exec (.xor x y sprite) s = .next t ∧ Responded s t (xorEvents x y 0 sprite s.fb) 0#4 1#5 ∧
      t.fb = compositeFrom x y 0 sprite s.fb ∧ t.keymap = s.keymap ∧
      t.out = if sprite = [] then s.out else { s.out with cs := .high, dc := .high }

/-- XOR's frame, whatever fails: every framebuffer byte other than the two bytes of the sprite's rows that its operands
address reads as before (only the first of them at an aligned column), and KEYMAP, the columns, the reset line and the
command port are unchanged (43_framebuffer_compositor_xor.md section 1). -/
def Obligations.XorFrame : Prop :=
  ∀ (s t : State) (x y : Byte) (sprite : List Byte), Memory.wf s.fb = true → exec (.xor x y sprite) s = .next t →
    (∀ r < 32, ∀ b < 8,
      (∀ i < sprite.length, ¬(r = rowOf y i ∧ (b = byteIndex x ∨ colOffset x ≠ 0 ∧ b = nextByteIndex x))) →
        t.fbByte r b = s.fbByte r b) ∧
    t.keymap = s.keymap ∧ t.out.cols = s.out.cols ∧ t.out.rst = s.out.rst ∧ t.cmdIn = s.cmdIn

/-- XOR stopped at exchange `k`: sprite bytes 0 to `k div 24` stay applied and no later one is, the response carries the
kind that the failed exchange's place in its transaction gives, and VALUE is 0 (43_framebuffer_compositor_xor.md section 1
on XOR stopped by a failure, the spec's decision D26; the places and kinds are 41_serial_command_sequencer.md section 1, its
decisions D9 and D10). -/
def Obligations.XorStoppedByFailure : Prop :=
  ∀ (s : State) (x y : Byte) (sprite : List Byte) (k : Nat), s.FirstFailureAt k → k < 24 * sprite.length →
    ∃ t, exec (.xor x y sprite) s = .next t ∧ t.fb = compositeFrom x y 0 (sprite.take (k / 24 + 1)) s.fb ∧
      t.result = ⟨statusOf (frameKind (k % 4)), 0#5, true⟩ ∧ t.keymap = s.keymap

/-- XOR is its own inverse: two successful XORs with the same operands, any number of sprite bytes included, restore the
framebuffer, and they do make `48 N` exchanges (43_framebuffer_compositor_xor.md section 1 on the laws of XOR, which the
spec marks as derived). -/
def Obligations.XorIsItsOwnInverse : Prop :=
  ∀ (s : State) (x y : Byte) (sprite : List Byte), Memory.wf s.fb = true → s.AllSucceed (48 * sprite.length) →
    ∃ t u, exec (.xor x y sprite) s = .next t ∧ exec (.xor x y sprite) t = .next u ∧ u.fb = s.fb ∧
      u.log.length = s.log.length + 48 * sprite.length

/-- Two successful XORs in either order leave the same framebuffer (43_framebuffer_compositor_xor.md section 1, which the
spec marks as derived). -/
def Obligations.XorsCommute : Prop :=
  ∀ (s : State) (x y x' y' : Byte) (p q : List Byte), Memory.wf s.fb = true →
    s.AllSucceed (24 * p.length + 24 * q.length) →
    ∃ t u t' u', exec (.xor x y p) s = .next t ∧ exec (.xor x' y' q) t = .next u ∧
      exec (.xor x' y' q) s = .next t' ∧ exec (.xor x y p) t' = .next u' ∧ u.fb = u'.fb

/-- CLEAR completes: when its 768 exchanges succeed, zeros have been written to every physical column 0 to 63 once and in
ascending order, the framebuffer is zero, and the response is 00 00 (43_framebuffer_compositor_xor.md section 2; the order
of the columns is the spec's decision D15, that of the exchanges D9, D11 and D12, the response's layout D3). -/
def Obligations.ClearCompletes : Prop :=
  ∀ s : State, s.AllSucceed 768 →
    ∃ t, exec .clear s = .next t ∧ Responded s t clearEvents 0#4 0#5 ∧ (∀ r < 32, ∀ b < 8, t.fbByte r b = 0x00#8) ∧
      t.fb = [] ∧ t.keymap = s.keymap ∧ t.out = { s.out with cs := .high, dc := .high }

/-- INIT completes: when its 803 exchanges succeed, the reset pulse, the seven configuration commands, the cleared columns
and the display-on command have gone out in order, the framebuffer is zero, the reset line and chip-select are high and
mode-select low, and the response is 00 00 (41_serial_command_sequencer.md section 4; the command forms are the spec's
decision D14, the pulse D30, the order of the columns D15 and of the exchanges D9, D11 and D12, the response's layout D3).
-/
def Obligations.InitCompletes : Prop :=
  ∀ s : State, s.AllSucceed 803 →
    ∃ t, exec .init s = .next t ∧ Responded s t initEvents 0#4 0#5 ∧ (∀ r < 32, ∀ b < 8, t.fbByte r b = 0x00#8) ∧
      t.fb = [] ∧ t.keymap = s.keymap ∧ t.out = { s.out with cs := .high, dc := .low, rst := .high }

/-- A CLEAR that fails anywhere leaves the framebuffer as it was; an INIT leaves it as it was when it fails before its last
step and zero when it fails there; the status is the failed exchange's (41_serial_command_sequencer.md section 4,
43_framebuffer_compositor_xor.md section 2, 60_exceptions.md section 2; the spec's decision D26; the places and kinds are its
decisions D9 and D10). -/
def Obligations.FailedClearOrInitFramebuffer : Prop :=
  (∀ (s : State) (k : Nat), s.FirstFailureAt k → k < 768 →
    ∃ t, exec .clear s = .next t ∧ t.fb = s.fb ∧ t.result = ⟨statusOf (frameKind (k % 4)), 0#5, true⟩) ∧
  (∀ (s : State) (k : Nat), s.FirstFailureAt k → k < 803 →
    ∃ t, exec .init s = .next t ∧ t.fb = (if k < 799 then s.fb else []) ∧
      t.result = ⟨statusOf (initKind k), 0#5, true⟩)

/-- An aborted display operation is precise: its trace is that of the successful operation up to the failing exchange, the
failed exchange, and, when that lay in the try part of a transaction, the one de-asserting write; nothing more is sent
(60_exceptions.md section 2, 41_serial_command_sequencer.md section 1; the spec's decisions D9 and D10). -/
def Obligations.DisplayAbortIsPrecise : Prop :=
  ∀ (i : Instr) (s : State) (k : Nat) (e : Event), s.FirstFailureAt k → (displayTrace s i)[k]? = some e →
    ∃ t, exec i s = .next t ∧
      NewEvents s t ((displayTrace s i).take k ++ [e.failed] ++
        (if e.inTryPart then [releaseEvent s (k + 1)] else []))

/-- The frame of CLEAR and INIT, whatever fails: KEYMAP, the columns and the command port are unchanged, and CLEAR leaves
the reset line alone (43_framebuffer_compositor_xor.md section 2, 41_serial_command_sequencer.md section 4). -/
def Obligations.ClearAndInitFrame : Prop :=
  ∀ (i : Instr) (s t : State), i = .clear ∨ i = .init → exec i s = .next t →
    t.keymap = s.keymap ∧ t.out.cols = s.out.cols ∧ t.cmdIn = s.cmdIn ∧ (i = .clear → t.out.rst = s.out.rst)

/-! ## The column encoder -/

/-- The physical column of a logical row is `2 * (31 - (row mod 32))`: even, in 0 to 62, and each pair of columns belongs
to exactly one row (R170; the bijection is 20_memory.md section 4, which the spec marks as derived). -/
def Obligations.RowsOwnTheirColumnPairs : Prop :=
  (∀ row : Nat, physCol row = 2 * (31 - row % 32) ∧ physCol row % 2 = 0 ∧ physCol row + 1 ≤ 63) ∧
  (∀ a < 64, ∃ row < 32, (a = physCol row ∨ a = physCol row + 1) ∧
    ∀ row' < 32, a = physCol row' ∨ a = physCol row' + 1 → row' = row)

/-- `Rev8` reverses the bits of a byte and is its own inverse (R171). -/
def Obligations.ByteReversal : Prop :=
  ∀ v : Byte, (∀ k < 8, (rev8 v).getLsbD k = v.getLsbD (7 - k)) ∧ rev8 (rev8 v) = v

/-- `EncodeRow`: (a) payload position `q` (bit `q mod 8` of byte `q div 8`) is the logical pixel `q div 2`; (b) it is
linear over exclusive-or, and a zero row gives sixteen zero bytes; (c) different rows give different payloads; (d) every
payload byte is one of the sixteen bit-doubled values (42_column_encoder_bitdouble.md section 3, which the spec marks as
derived; the nibble order is its decision D16). -/
def Obligations.RowEncodingProperties : Prop :=
  (∀ (m : Memory) (r q : Nat), q < 128 →
    ((encodeRow m r)[q / 8]?.getD 0#8).getLsbD (q % 8) = fbPixel m (q / 2) r) ∧
  (∀ (m n p : Memory) (r : Nat), (∀ b < 8, fbRead p r b = fbRead m r b ^^^ fbRead n r b) →
    encodeRow p r = List.zipWith (fun a b => a ^^^ b) (encodeRow m r) (encodeRow n r)) ∧
  (∀ (m : Memory) (r : Nat), (∀ b < 8, fbRead m r b = 0x00#8) → encodeRow m r = zeroPayload) ∧
  (∀ (m n : Memory) (r r' : Nat), encodeRow m r = encodeRow n r' → ∀ b < 8, fbRead m r b = fbRead n r' b) ∧
  (∀ (m : Memory) (r : Nat), (encodeRow m r).length = 16 ∧ ∀ v ∈ encodeRow m r, ∃ n : Nibble, v = dbl n)

/-- Rendering a row: the payload is computed once and written to the row's first and then its second physical column, six
transactions in 24 events, and nothing of the framebuffer changes; a failure in any transaction ends it at once with that
failure's kind and the later transactions are not sent (42_column_encoder_bitdouble.md section 4). The four events of a
transaction, the de-asserting write after a failure and the kind by the failure's place are those of
41_serial_command_sequencer.md section 1, the spec's decisions D9 and D10; the low nibble first is its decision D12 and the
payload's layout its decision D16 (assumption log 11). -/
def Obligations.RowIsRenderedAtBothColumns : Prop :=
  ∀ (s : State) (row : Nat),
    (s.AllSucceed 24 → ∃ t, renderRow row s = (.ok (), t) ∧
      NewEvents s t (columnEvents (encodeRow s.fb row) (2 * (31 - row % 32)) ++
        columnEvents (encodeRow s.fb row) (2 * (31 - row % 32) + 1)) ∧ t.fb = s.fb) ∧
    (∀ k e, s.FirstFailureAt k → (rowEvents row (encodeRow s.fb row))[k]? = some e →
      ∃ t, renderRow row s = (.err (frameKind (k % 4)), t) ∧
        NewEvents s t ((rowEvents row (encodeRow s.fb row)).take k ++ [e.failed] ++
          (if e.inTryPart then [releaseEvent s (k + 1)] else [])) ∧ t.fb = s.fb)

/-! ## The serial command sequencer -/

/-- The paths of a transaction: a failed assertion ends it at once; a failed mode-select or bus write is followed by the
de-asserting write and is the error reported whatever that write does; a failed de-asserting write alone is a chip-select
failure; and the bus is not written after a failed mode-select (41_serial_command_sequencer.md section 1; the spec's
decisions D9 and D10). -/
def Obligations.TransactionPaths : Prop :=
  ∀ (s : State) (mode : Level) (bytes : List Byte),
    (s.FirstFailureAt 0 →
      (transaction mode bytes s).1 = .err .chipSelect ∧
      NewEvents s (transaction mode bytes s).2 [.writeFailed .cs .low]) ∧
    (s.FirstFailureAt 1 →
      (transaction mode bytes s).1 = .err .modeSelect ∧
      NewEvents s (transaction mode bytes s).2 [.wrote .cs .low, .writeFailed .dc mode, releaseEvent s 2]) ∧
    (s.FirstFailureAt 2 →
      (transaction mode bytes s).1 = .err .busWrite ∧
      NewEvents s (transaction mode bytes s).2
        [.wrote .cs .low, .wrote .dc mode, .sendFailed bytes, releaseEvent s 3]) ∧
    (s.FirstFailureAt 3 →
      (transaction mode bytes s).1 = .err .chipSelect ∧
      NewEvents s (transaction mode bytes s).2
        [.wrote .cs .low, .wrote .dc mode, .sent bytes, .writeFailed .cs .high]) ∧
    (s.AllSucceed 4 →
      (transaction mode bytes s).1 = .ok () ∧ NewEvents s (transaction mode bytes s).2 (frameEvents mode bytes) ∧
      (transaction mode bytes s).2.out = { s.out with cs := .high, dc := mode })

/-- A simple command is one command byte in one transaction, trace `CS=0, DC=0, TX[c], CS=1` (R142), and so the two simple
configuration commands and the two column-address commands complete. The order of the four exchanges is the spec's decisions
D9 and D11. That executing one moves SEQ behind the transaction
it stood before, and leaves SEQ idle in an idle block, is the model's DESIGN CHOICE (assumption log 21). -/
def Obligations.SimpleCommandsComplete : Prop :=
  ∀ s : State, s.AllSucceed 4 →
    (∀ c : Byte, simpleCmd c = transaction .low [c] ∧ (simpleCmd c s).1 = .ok () ∧
      NewEvents s (simpleCmd c s).2 [.wrote .cs .low, .wrote .dc .low, .sent [c], .wrote .cs .high]) ∧
    (∃ t, exec .panelVerticalAddressing s = .next t ∧ Transacted s t .low [Config.cmdVerticalMode]) ∧
    (∃ t, exec .panelDisplayOn s = .next t ∧ Transacted s t .low [Config.cmdDisplayOn]) ∧
    (∀ n : Nibble, ∃ t, exec (.panelColumnLow n) s = .next t ∧ Transacted s t .low [Config.colLoCmd n]) ∧
    (∀ n : Nibble, ∃ t, exec (.panelColumnHigh n) s = .next t ∧ Transacted s t .low [Config.colHiCmd n])

/-- A parameterized command is the command byte and then its parameter byte in one transaction, mode-select low for both,
trace `CS=0, DC=0, TX[c p], CS=1` (R143), and so the six configuration commands with a parameter complete. The order of the four exchanges is the spec's
decisions D9 and D11, and which commands have a parameter its D14. That executing
one moves SEQ behind the transaction it stood before, and leaves SEQ idle in an idle block, is the model's DESIGN CHOICE
(assumption log 21). -/
def Obligations.ParameterizedCommandsComplete : Prop :=
  ∀ s : State, s.AllSucceed 4 →
    (∀ c p : Byte, paramCmd c p = transaction .low [c, p] ∧ (paramCmd c p s).1 = .ok () ∧
      NewEvents s (paramCmd c p s).2 [.wrote .cs .low, .wrote .dc .low, .sent [c, p], .wrote .cs .high]) ∧
    (∃ t, exec .panelSetStartLine s = .next t ∧ Transacted s t .low [Config.cmdStartLine, 0x00#8]) ∧
    (∃ t, exec .panelSetContrast s = .next t ∧ Transacted s t .low [Config.cmdContrast, 0x80#8]) ∧
    (∃ t, exec .panelSetOsc s = .next t ∧ Transacted s t .low [Config.cmdOsc, 0x41#8]) ∧
    (∃ t, exec .panelSetPrecharge s = .next t ∧ Transacted s t .low [Config.cmdPrecharge, 0x22#8]) ∧
    (∃ t, exec .panelSetVcom s = .next t ∧ Transacted s t .low [Config.cmdVcom, 0x35#8]) ∧
    (∃ t, exec .panelSetOffset s = .next t ∧ Transacted s t .low [Config.cmdOffset, 0x60#8])

/-- The pixel-data transaction completes: sixteen payload bytes, mode-select high, byte 0 first
(41_serial_command_sequencer.md section 1; the order of the four exchanges is the spec's decisions D9 and D11). That
executing it moves SEQ behind the transaction it stood before, and leaves
SEQ idle in an idle block, is the model's DESIGN CHOICE (assumption log 21). -/
def Obligations.DataTransactionCompletes : Prop :=
  ∀ (s : State) (payload : List Byte), payload.length = 16 → s.AllSucceed 4 →
    ∃ t, exec (.panelData payload) s = .next t ∧ Transacted s t .high payload

/-- The frame of the eleven panel transactions, whatever fails: FB, KEYMAP, the operand latches, the result register, the
responses, the command port, the reset line and the columns are unchanged (41_serial_command_sequencer.md section 1,
60_exceptions.md section 2); a failure sends a sequencer that stood before a transaction to the error's response, of the kind
that the failure's place gives (the spec's decisions D9 and D10). That it does so whichever transaction is executed, also one
that the sequencer does not stand before, is the model's DESIGN CHOICE (assumption log 21). -/
def Obligations.PanelTransactionFrame : Prop :=
  ∀ (i : Instr) (mode : Level) (s t : State), i.interface = .panelWire mode → exec i s = .next t →
    t.fb = s.fb ∧ t.keymap = s.keymap ∧ t.operands = s.operands ∧ t.result = s.result ∧ t.responses = s.responses ∧
    t.cmdIn = s.cmdIn ∧ t.out.rst = s.out.rst ∧ t.out.cols = s.out.cols ∧
    (∀ op f k, s.seq = .busy op (frameStart f) → k < 4 → s.FirstFailureAt k →
      t.seq = .busy op (.respond (categoryOf (statusOf (frameKind k))) (statusOf (frameKind k)) 0#5))

/-- Every bus write of every operation carries one command byte, two command bytes or sixteen data bytes
(20_memory.md section 3, 30_encoding.md section 4). -/
def Obligations.BusWritesHaveThreeLengths : Prop :=
  ∀ (i : Instr) (s t : State) (events : List Event) (bytes : List Byte), i.interface = .hostDescriptor →
    exec i s = .next t → NewEvents s t events → (.sent bytes ∈ events ∨ .sendFailed bytes ∈ events) →
    bytes.length = 1 ∨ bytes.length = 2 ∨ bytes.length = 16

/-! ## The panel (the spec's informative reference panel) -/

/-- Coherence: if the OPEN single-byte commands can be told apart, then after a successful INIT the reference panel shows
the framebuffer and is on, whatever it held; and a successful XOR or CLEAR keeps it showing the framebuffer, as does every
keypad operation, SET_KEYMAP and reserved opcode, whatever fails in it (20_memory.md sections 5 and 6; the first is marked
in the spec as derived, the second as informative; assumption log 17). -/
def Obligations.PanelShowsTheFramebuffer : Prop :=
  Config.WireDistinct → ∀ (s t : State) (events : List Event) (p : Panel), NewEvents s t events →
    (s.AllSucceed 803 → exec .init s = .next t →
      (p.replay events).shows t.fb ∧ (p.replay events).ready ∧ (p.replay events).on = true) ∧
    (∀ x y sprite, Memory.wf s.fb = true → s.AllSucceed (24 * sprite.length) → exec (.xor x y sprite) s = .next t →
      p.ready → p.shows s.fb → (p.replay events).shows t.fb ∧ (p.replay events).ready) ∧
    (s.AllSucceed 768 → exec .clear s = .next t → p.ready →
      (p.replay events).shows t.fb ∧ (p.replay events).ready) ∧
    (∀ i, i = .isAnyKeyPressed ∨ i = .readKey ∨ (∃ k, i = .setKeymap k) ∨ (∃ b, i = .reserved b) →
      exec i s = .next t → p.ready → p.shows s.fb → (p.replay events).shows t.fb ∧ (p.replay events).ready)

/-! ## The keypad -/

/-- `DecodeOneHot` is strict single-hot: row `r` for the pattern with only bit `r` set, and nothing for the twelve other
patterns (R113). -/
def Obligations.OnlyOneHotPatternsDecode : Prop :=
  ∀ (rows : BitVec 4) (r : Line4), decodeOneHot rows = some r ↔ ∀ q : Line4, rows.getLsbD q.val = decide (q = r)

/-- IS_ANY_KEY_PRESSED completes: exactly four reads, rows 0 to 3, VALUE bit 0 says whether one of them was high, and
nothing else changes (40_keypad_matrix_scanner.md section 2; the order of the reads is the spec's decision D17). -/
def Obligations.IsAnyKeyCompletes : Prop :=
  ∀ s : State, s.AllSucceed 4 →
    ∃ t, exec .isAnyKeyPressed s = .next t ∧
      Responded s t (readEvents s 0) 0#4
        (if s.levelAt 0 = .high ∨ s.levelAt 1 = .high ∨ s.levelAt 2 = .high ∨ s.levelAt 3 = .high then 1#5 else 0#5) ∧
      t.fb = s.fb ∧ t.keymap = s.keymap ∧ t.out = s.out

/-- READ_KEY with nothing pressed returns None after exactly the four reads of the pre-check: no write, no wait, no latch
changed (40_keypad_matrix_scanner.md section 3, property (a)). -/
def Obligations.ReadKeyIdle : Prop :=
  ∀ s : State, s.AllSucceed 4 → s.sampleAt 0 = 0b0000#4 →
    ∃ t, exec .readKey s = .next t ∧ Responded s t (readEvents s 0) 0#4 0#5 ∧
      t.fb = s.fb ∧ t.keymap = s.keymap ∧ t.out = s.out

/-- READ_KEY resolves a key: the pre-check is non-zero, the samples under the columns before `c` are not one-hot and the
sample under `c` is one-hot with row `r`; then the trace is the scan up to column `c` and the restoration, the response is
`Some KEYMAP[r][c]`, and the four columns are high (40_keypad_matrix_scanner.md section 3, property (c), which the spec
marks as derived; the order of the exchanges is its decisions D17 and D18, step 2d D19, the restoration D20, the response's
layout D3). -/
def Obligations.ReadKeyResolves : Prop :=
  ∀ (s : State) (c r : Line4), s.AllSucceed (18 + 7 * c.val) → s.sampleAt 0 ≠ 0b0000#4 →
    (∀ d : Line4, d < c → decodeOneHot (s.sampleAt (scanReadAt d.val)) = none) →
    decodeOneHot (s.sampleAt (scanReadAt c.val)) = some r →
    ∃ t, exec .readKey s = .next t ∧ Responded s t (hitTrace s c) 0#4 (1#1 ++ Keymap.entry s.keymap r c) ∧
      t.fb = s.fb ∧ t.keymap = s.keymap ∧ t.out = { s.out with cols := Quad.all .high }

/-- READ_KEY that resolves nothing: the pre-check is non-zero and no column's sample is one-hot; all four columns are
scanned, the response is None, and the four columns are high (40_keypad_matrix_scanner.md section 3, corner case (a); the
order of the exchanges is the spec's decisions D17 and D18, step 2d D19, the restoration D20). -/
def Obligations.ReadKeyResolvesNothing : Prop :=
  ∀ s : State, s.AllSucceed 40 → s.sampleAt 0 ≠ 0b0000#4 →
    (∀ d : Line4, decodeOneHot (s.sampleAt (scanReadAt d.val)) = none) →
    ∃ t, exec .readKey s = .next t ∧ Responded s t (missTrace s) 0#4 0#5 ∧
      t.fb = s.fb ∧ t.keymap = s.keymap ∧ t.out = { s.out with cols := Quad.all .high }

/-- READ_KEY leaves the columns energized on every path, success, no key or failure: if they were high before and none of
the last four exchanges is a failed write, they are high after (40_keypad_matrix_scanner.md section 3, property (b), which
the spec marks as derived; the restoration's scope is its decision D20). -/
def Obligations.ReadKeyRestoresTheColumns : Prop :=
  ∀ (s t : State) (events : List Event), s.out.cols = Quad.all .high → exec .readKey s = .next t →
    NewEvents s t events →
    (∀ e ∈ events.drop (events.length - 4), Event.failure e ≠ some .pinWrite) → t.out.cols = Quad.all .high

/-- A failure inside the scan of READ_KEY: the trace is that of the scan up to the failing exchange, the failed exchange, and
the four restoring writes, all attempted whatever they answer; the response is the failed exchange's error, whatever the
restoration does (40_keypad_matrix_scanner.md section 3, 60_exceptions.md section 2; the order of the exchanges is the
spec's decisions D17 and D18, step 2d D19, the restoration D20). -/
def Obligations.ScanFailureRestores : Prop :=
  ∀ (s : State) (k : Nat) (e : Event), s.FirstFailureAt k → s.sampleAt 0 ≠ 0b0000#4 →
    (∀ d : Line4, scanReadAt d.val + 4 ≤ k → decodeOneHot (s.sampleAt (scanReadAt d.val)) = none) →
    4 ≤ k → k < 36 → (missTrace s)[k]? = some e →
    ∃ t, exec .readKey s = .next t ∧
      NewEvents s t ((missTrace s).take k ++ [e.failed] ++ [restoreEvent s (k + 1) 0, restoreEvent s (k + 2) 1,
        restoreEvent s (k + 3) 2, restoreEvent s (k + 4) 3]) ∧
      (∀ kind, Event.failure e.failed = some kind → t.result = ⟨statusOf kind, 0#5, true⟩) ∧
      t.fb = s.fb ∧ t.keymap = s.keymap

/-- A read of the pre-check that fails ends IS_ANY_KEY_PRESSED and READ_KEY at once with PIN_READ_FAIL: the later rows are
not read, no column is touched, nothing else changes (40_keypad_matrix_scanner.md sections 2 and 3). -/
def Obligations.PrecheckFailureTouchesNothing : Prop :=
  ∀ (i : Instr) (s : State) (k : Nat), i = .isAnyKeyPressed ∨ i = .readKey → k < 4 → s.FirstFailureAt k →
    ∃ t, exec i s = .next t ∧
      Responded s t ((readEvents s 0).take k ++ [((readEvents s 0)[k]?.getD (.readFailed 0)).failed]) 0x2#4 0#5 ∧
      t.fb = s.fb ∧ t.keymap = s.keymap ∧ t.out = s.out

/-- Under the ideal key matrix with the keys `held` down, the columns high and every exchange successful, READ_KEY answers
the key of the first column in which exactly one row's key is held, and None if there is none
(40_keypad_matrix_scanner.md section 3 on several keys, which the spec marks as derived; 20_memory.md section 6, which is
informative; assumption log 17). -/
def Obligations.IdealMatrixResolves : Prop :=
  ∀ (s t : State) (events : List Event) (held : HeldKeys), s.out.cols = Quad.all .high → s.AllSucceed 40 →
    exec .readKey s = .next t → NewEvents s t events → matrixAgrees held s.out.cols events = true →
    t.result = ⟨0#4, valueKey ((resolvedKey held).map fun k => Keymap.entry s.keymap k.1 k.2), true⟩

/-- SET_KEYMAP completes in every state: the whole table is replaced, no exchange is made, the response is 00 00, and
nothing else changes (40_keypad_matrix_scanner.md section 4; that it may be issued whenever the block is idle is the
spec's decision D23). -/
def Obligations.SetKeymapCompletes : Prop :=
  ∀ (s : State) (table : Keymap),
    ∃ t, exec (.setKeymap table) s = .next t ∧ Responded s t [] 0#4 0#5 ∧
      (∀ r c : Line4, Keymap.entry t.keymap r c = Keymap.entry table r c) ∧ t.fb = s.fb ∧ t.out = s.out

/-- The frame of the keypad operations and of the reserved opcodes, whatever fails: FB, chip-select, mode-select, the
reset line and the command port are unchanged; KEYMAP too but for SET_KEYMAP, and the columns but for READ_KEY
(10_state.md section 1, 60_exceptions.md section 2). -/
def Obligations.KeypadFrame : Prop :=
  ∀ (i : Instr) (s t : State),
    i = .isAnyKeyPressed ∨ i = .readKey ∨ (∃ k, i = .setKeymap k) ∨ (∃ b, i = .reserved b) → exec i s = .next t →
    t.fb = s.fb ∧ t.out.cs = s.out.cs ∧ t.out.dc = s.out.dc ∧ t.out.rst = s.out.rst ∧ t.cmdIn = s.cmdIn ∧
    ((∀ k, i ≠ .setKeymap k) → t.keymap = s.keymap) ∧ (i ≠ .readKey → t.out.cols = s.out.cols)

/-! ## Responses and errors -/

/-- A reserved opcode completes in every state with ILLEGAL_OP and no other effect (60_exceptions.md section 2; the spec's
decision D5). -/
def Obligations.ReservedCompletes : Prop :=
  ∀ (s : State) (opcode : Byte), 6 ≤ opcode.toNat →
    ∃ t, exec (.reserved opcode) s = .next t ∧ Responded s t [] 0x8#4 0#5 ∧ t.fb = s.fb ∧ t.keymap = s.keymap ∧
      t.out = s.out

/-- The response completes in every state: the result register holds STATUS and VALUE and is valid, the host is presented
byte 0 with CAT in bits 7:6, zero in 5:4 and STATUS in 3:0 and byte 1 with zero in bits 7:5 and VALUE in 4:0, SEQ is IDLE,
and nothing else changes but the operand latches, which are meaningless from there on (30_encoding.md section 2,
10_state.md section 6; the layout is the spec's decision D3). -/
def Obligations.ResponseCompletes : Prop :=
  ∀ (s : State) (cat : BitVec 2) (status : Nibble) (value : BitVec 5),
    ∃ t b0 b1, exec (.response cat status value) s = .next t ∧ t.result = ⟨status, value, true⟩ ∧
      t.responses = (b0, b1) :: s.responses ∧
      b0.toNat = 64 * cat.toNat + status.toNat ∧ b1.toNat = value.toNat ∧
      t.seq = .idle ∧ t.fb = s.fb ∧ t.keymap = s.keymap ∧ t.out = s.out ∧ t.cmdIn = s.cmdIn ∧ t.env = s.env ∧
      t.log = s.log

/-- Every operation reports the first failure of its trace, with VALUE 0, and success if nothing in it failed: a clean-up
write that fails after an earlier failure is dropped, one that fails alone is reported, and of the restoration's the first
(60_exceptions.md sections 1 and 2; the ranking is the spec's decision D10). -/
def Obligations.FirstFailureIsReported : Prop :=
  ∀ (i : Instr) (s t : State) (events : List Event), i.interface = .hostDescriptor → exec i s = .next t →
    NewEvents s t events →
    (∀ k, firstFailure events = some k → t.result = ⟨statusOf k, 0#5, true⟩) ∧
    (firstFailure events = none → (∀ b, i ≠ .reserved b) → t.result.status = 0x0#4)

/-- Which operation can report which error, both ways: the table's crosses are reached from some state and its blanks from
none (60_exceptions.md section 1, the table of operations and errors, which the spec marks as derived). -/
def Obligations.ErrorsByOperation : Prop :=
  ∀ (i : Instr) (k : Kind), i.interface = .hostDescriptor →
    (mayReport i k = true ↔ ∃ s t, exec i s = .next t ∧ t.result.status = statusOf k)

/-- Every operation only appends to the trace, takes one answer of the environment for each exchange, makes at most as many
exchanges as its loop bounds give (INIT 803, CLEAR 768, XOR 24 N, IS_ANY_KEY_PRESSED 4, READ_KEY 40, the others none), and
presents exactly one response, when it is done and idle again (20_memory.md section 5, 43_framebuffer_compositor_xor.md
section 3, which the spec marks as derived). -/
def Obligations.OperationsAreBounded : Prop :=
  ∀ (i : Instr) (s : State), i.interface = .hostDescriptor →
    ∃ t events, exec i s = .next t ∧ NewEvents s t events ∧ events.length ≤ exchangeBound i ∧
      t.env = s.env.drop events.length ∧ t.responses.length = s.responses.length + 1 ∧ t.seq = .idle
end

