-- ==== Sys2Proof/Laws/State.lean ====
section
/-! SUPPORT. One lemma per field per update of the state, and the small laws of quads and latches. -/

namespace Sys2Proof

@[simp] theorem Quad.get_all {α : Type} (v : α) (i : Line4) : (Quad.all v).get i = v := by
  fin_cases i <;> rfl

@[simp] theorem Quad.get_set_self {α : Type} (q : Quad α) (i : Line4) (v : α) : (q.set i v).get i = v := by
  fin_cases i <;> rfl

theorem Quad.get_set_of_ne {α : Type} (q : Quad α) {i j : Line4} (h : j ≠ i) (v : α) :
    (q.set i v).get j = q.get j := by
  fin_cases i <;> fin_cases j <;> first | rfl | exact absurd rfl h

theorem Quad.get_set {α : Type} (q : Quad α) (i j : Line4) (v : α) :
    (q.set i v).get j = if j = i then v else q.get j := by
  split
  · next h => rw [h, Quad.get_set_self]
  · next h => exact Quad.get_set_of_ne q h v

/-- Two quads with the same entries are one. -/
theorem Quad.eq_of_get {α : Type} {p q : Quad α} (h : ∀ i, p.get i = q.get i) : p = q := by
  obtain ⟨p0, p1, p2, p3⟩ := p
  obtain ⟨q0, q1, q2, q3⟩ := q
  have h0 := h 0; have h1 := h 1; have h2 := h 2; have h3 := h 3
  simp only [Quad.get] at h0 h1 h2 h3
  subst h0; subst h1; subst h2; subst h3; rfl

/-- Driving the four columns one after another leaves the quad of that level, whatever it was. -/
@[simp] theorem Quad.set_four {α : Type} (q : Quad α) (v : α) :
    (((q.set 0 v).set 1 v).set 2 v).set 3 v = Quad.all v := rfl

namespace Machine

/-! `State.after` -/

@[simp] theorem State.after_fb (s : State) (e : Event) : (s.after e).fb = s.fb := rfl
@[simp] theorem State.after_keymap (s : State) (e : Event) : (s.after e).keymap = s.keymap := rfl
@[simp] theorem State.after_out (s : State) (e : Event) : (s.after e).out = s.out := rfl
@[simp] theorem State.after_operands (s : State) (e : Event) : (s.after e).operands = s.operands := rfl
@[simp] theorem State.after_result (s : State) (e : Event) : (s.after e).result = s.result := rfl
@[simp] theorem State.after_seq (s : State) (e : Event) : (s.after e).seq = s.seq := rfl
@[simp] theorem State.after_cmdIn (s : State) (e : Event) : (s.after e).cmdIn = s.cmdIn := rfl
@[simp] theorem State.after_env (s : State) (e : Event) : (s.after e).env = s.env.drop 1 := rfl
@[simp] theorem State.after_log (s : State) (e : Event) : (s.after e).log = e :: s.log := rfl
@[simp] theorem State.after_responses (s : State) (e : Event) : (s.after e).responses = s.responses := rfl

/-! `State.load` -/

@[simp] theorem State.load_fb (s : State) (o : Operands) : (s.load o).fb = s.fb := rfl
@[simp] theorem State.load_keymap (s : State) (o : Operands) : (s.load o).keymap = s.keymap := rfl
@[simp] theorem State.load_out (s : State) (o : Operands) : (s.load o).out = s.out := rfl
@[simp] theorem State.load_operands (s : State) (o : Operands) : (s.load o).operands = o := rfl
@[simp] theorem State.load_result (s : State) (o : Operands) : (s.load o).result = s.result := rfl
@[simp] theorem State.load_seq (s : State) (o : Operands) : (s.load o).seq = s.seq := rfl
@[simp] theorem State.load_cmdIn (s : State) (o : Operands) : (s.load o).cmdIn = s.cmdIn := rfl
@[simp] theorem State.load_env (s : State) (o : Operands) : (s.load o).env = s.env := rfl
@[simp] theorem State.load_log (s : State) (o : Operands) : (s.load o).log = s.log := rfl
@[simp] theorem State.load_responses (s : State) (o : Operands) : (s.load o).responses = s.responses := rfl

/-! `writeResponse` -/

section
variable (cat : BitVec 2) (status : Nibble) (value : BitVec 5) (s : State)

@[simp] theorem writeResponse_fb : (writeResponse cat status value s).fb = s.fb := rfl
@[simp] theorem writeResponse_keymap : (writeResponse cat status value s).keymap = s.keymap := rfl
@[simp] theorem writeResponse_out : (writeResponse cat status value s).out = s.out := rfl
@[simp] theorem writeResponse_result : (writeResponse cat status value s).result = ⟨status, value, true⟩ := rfl
@[simp] theorem writeResponse_seq : (writeResponse cat status value s).seq = .idle := rfl
@[simp] theorem writeResponse_cmdIn : (writeResponse cat status value s).cmdIn = s.cmdIn := rfl
@[simp] theorem writeResponse_env : (writeResponse cat status value s).env = s.env := rfl
@[simp] theorem writeResponse_log : (writeResponse cat status value s).log = s.log := rfl
@[simp] theorem writeResponse_responses :
    (writeResponse cat status value s).responses =
      (responseByte0 cat status, responseByte1 value) :: s.responses := rfl

end

/-! `State.goto` -/

@[simp] theorem State.goto_fb (s : State) (op : Op) (ph : Phase) : (s.goto op ph).fb = s.fb := rfl
@[simp] theorem State.goto_keymap (s : State) (op : Op) (ph : Phase) : (s.goto op ph).keymap = s.keymap := rfl
@[simp] theorem State.goto_out (s : State) (op : Op) (ph : Phase) : (s.goto op ph).out = s.out := rfl
@[simp] theorem State.goto_operands (s : State) (op : Op) (ph : Phase) : (s.goto op ph).operands = s.operands := rfl
@[simp] theorem State.goto_result (s : State) (op : Op) (ph : Phase) : (s.goto op ph).result = s.result := rfl
@[simp] theorem State.goto_seq (s : State) (op : Op) (ph : Phase) : (s.goto op ph).seq = .busy op ph := rfl
@[simp] theorem State.goto_cmdIn (s : State) (op : Op) (ph : Phase) : (s.goto op ph).cmdIn = s.cmdIn := rfl
@[simp] theorem State.goto_env (s : State) (op : Op) (ph : Phase) : (s.goto op ph).env = s.env := rfl
@[simp] theorem State.goto_log (s : State) (op : Op) (ph : Phase) : (s.goto op ph).log = s.log := rfl
@[simp] theorem State.goto_responses (s : State) (op : Op) (ph : Phase) : (s.goto op ph).responses = s.responses := rfl

/-! `State.zeroFb` and `State.setKeymap` -/

@[simp] theorem State.zeroFb_fb (s : State) : s.zeroFb.fb = [] := rfl
@[simp] theorem State.zeroFb_keymap (s : State) : s.zeroFb.keymap = s.keymap := rfl
@[simp] theorem State.zeroFb_out (s : State) : s.zeroFb.out = s.out := rfl
@[simp] theorem State.zeroFb_operands (s : State) : s.zeroFb.operands = s.operands := rfl
@[simp] theorem State.zeroFb_result (s : State) : s.zeroFb.result = s.result := rfl
@[simp] theorem State.zeroFb_seq (s : State) : s.zeroFb.seq = s.seq := rfl
@[simp] theorem State.zeroFb_cmdIn (s : State) : s.zeroFb.cmdIn = s.cmdIn := rfl
@[simp] theorem State.zeroFb_env (s : State) : s.zeroFb.env = s.env := rfl
@[simp] theorem State.zeroFb_log (s : State) : s.zeroFb.log = s.log := rfl
@[simp] theorem State.zeroFb_responses (s : State) : s.zeroFb.responses = s.responses := rfl

@[simp] theorem State.setKeymap_fb (s : State) (t : Keymap) : (s.setKeymap t).fb = s.fb := rfl
@[simp] theorem State.setKeymap_keymap (s : State) (t : Keymap) : (s.setKeymap t).keymap = t := rfl
@[simp] theorem State.setKeymap_out (s : State) (t : Keymap) : (s.setKeymap t).out = s.out := rfl
@[simp] theorem State.setKeymap_operands (s : State) (t : Keymap) : (s.setKeymap t).operands = s.operands := rfl
@[simp] theorem State.setKeymap_result (s : State) (t : Keymap) : (s.setKeymap t).result = s.result := rfl
@[simp] theorem State.setKeymap_seq (s : State) (t : Keymap) : (s.setKeymap t).seq = s.seq := rfl
@[simp] theorem State.setKeymap_cmdIn (s : State) (t : Keymap) : (s.setKeymap t).cmdIn = s.cmdIn := rfl
@[simp] theorem State.setKeymap_env (s : State) (t : Keymap) : (s.setKeymap t).env = s.env := rfl
@[simp] theorem State.setKeymap_log (s : State) (t : Keymap) : (s.setKeymap t).log = s.log := rfl
@[simp] theorem State.setKeymap_responses (s : State) (t : Keymap) : (s.setKeymap t).responses = s.responses := rfl

/-! Latches -/

@[simp] theorem Latches.get_set_self (o : Latches) (l : Line) (v : Level) : (o.set l v).get l = v := by
  cases l with
  | cs => rfl
  | dc => rfl
  | rst => rfl
  | col c => simp [Latches.get, Latches.set]

theorem Latches.get_set_of_ne (o : Latches) {l m : Line} (h : m ≠ l) (v : Level) : (o.set l v).get m = o.get m := by
  cases l <;> cases m <;> first | rfl | exact absurd rfl h | skip
  next c d =>
    have hd : d ≠ c := fun e => h (by rw [e])
    simp [Latches.get, Latches.set, Quad.get_set_of_ne _ hd]

end Machine
end Sys2Proof
end

