-- ==== Sys2Proof/Laws/Memory.lean ====
section
/-! SUPPORT. The framebuffer as a memory: a read after a write, the canonical form, and equality of memories. -/

namespace Sys2Proof.Machine

theorem Memory.wfFrom_mono {m : Memory} {lo lo' : Nat} (h : Memory.wfFrom lo m = true) (hl : lo' ≤ lo) :
    Memory.wfFrom lo' m = true := by
  cases m with
  | nil => rfl
  | cons c m =>
    simp only [Memory.wfFrom, Bool.and_eq_true, decide_eq_true_eq] at h ⊢
    exact ⟨⟨⟨Nat.le_trans hl h.1.1.1, h.1.1.2⟩, h.1.2⟩, h.2⟩

/-- Below its first possible address a canonical memory lists nothing. -/
theorem Memory.read_of_lt {m : Memory} {lo a : Nat} (h : Memory.wfFrom lo m = true) (ha : a < lo) :
    Memory.read m a = Memory.unlisted := by
  induction m generalizing lo with
  | nil => rfl
  | cons c m ih =>
    simp only [Memory.wfFrom, Bool.and_eq_true, decide_eq_true_eq] at h
    simp only [Memory.read]
    rw [if_neg (by omega)]
    exact ih h.2 (by omega)

/-- A write keeps the canonical form. -/
theorem Memory.wfFrom_write {m : Memory} {lo a : Nat} (v : Byte) (h : Memory.wfFrom lo m = true) (hlo : lo ≤ a)
    (ha : a < 256) : Memory.wfFrom lo (Memory.write m a v) = true := by
  induction m generalizing lo with
  | nil =>
    simp only [Memory.write]
    split
    · rfl
    · next hv => simp [Memory.wfFrom, hlo, ha, hv]
  | cons c m ih =>
    have h0 := h
    simp only [Memory.wfFrom, Bool.and_eq_true, decide_eq_true_eq] at h
    simp only [Memory.write]
    split
    · next hlt =>
      split
      · exact h0
      · next hv => simp [Memory.wfFrom, hlo, ha, hv, h, Nat.succ_le_of_lt hlt]
    · split
      · next hge heq =>
        split
        · exact Memory.wfFrom_mono h.2 (by omega)
        · next hv => simp [Memory.wfFrom, hlo, ha, hv]; rw [heq]; exact h.2
      · simp only [Memory.wfFrom, Bool.and_eq_true, decide_eq_true_eq]
        exact ⟨h.1, ih h.2 (by omega)⟩

theorem Memory.wf_write {m : Memory} {a : Nat} (v : Byte) (h : Memory.wf m = true) (ha : a < 256) :
    Memory.wf (Memory.write m a v) = true := Memory.wfFrom_write v h (Nat.zero_le a) ha

/-- A read of a canonical memory after a write. -/
theorem Memory.read_write {m : Memory} {lo : Nat} (a b : Nat) (v : Byte) (h : Memory.wfFrom lo m = true) :
    Memory.read (Memory.write m a v) b = if b = a then v else Memory.read m b := by
  induction m generalizing lo with
  | nil =>
    simp only [Memory.write]
    split
    · next hv => split <;> simp [Memory.read, hv]
    · simp [Memory.read]
  | cons c m ih =>
    simp only [Memory.wfFrom, Bool.and_eq_true, decide_eq_true_eq] at h
    have hbelow : ∀ x, x < c.1 + 1 → Memory.read m x = Memory.unlisted := fun x hx => Memory.read_of_lt h.2 hx
    simp only [Memory.write]
    split
    · next hlt =>
      split
      · next hv =>
        by_cases hb : b = a
        · subst hb
          simp only [Memory.read, if_true]
          rw [if_neg (by omega), hbelow b (by omega), hv]
        · simp [hb]
      · simp [Memory.read]
    · split
      · next hge heq =>
        split
        · next hv =>
          by_cases hb : b = a
          · subst hb
            simp [hbelow b (by omega), hv]
          · simp [Memory.read, hb, ← heq]
        · simp only [Memory.read, ← heq]
          split <;> simp_all
      · next hge hne =>
        simp only [Memory.read]
        rw [ih h.2]
        by_cases hb : b = c.1
        · simp [hb, Ne.symm hne]
        · simp [hb]

/-- Two canonical memories that read alike are the same list. -/
theorem Memory.eq_of_read {m n : Memory} {lo lo' : Nat} (hm : Memory.wfFrom lo m = true)
    (hn : Memory.wfFrom lo' n = true) (h : ∀ a, Memory.read m a = Memory.read n a) : m = n := by
  induction m generalizing n lo lo' with
  | nil =>
    cases n with
    | nil => rfl
    | cons d n =>
      simp only [Memory.wfFrom, Bool.and_eq_true, decide_eq_true_eq] at hn
      have := h d.1
      simp only [Memory.read, if_true] at this
      exact absurd this.symm hn.1.2
  | cons c m ih =>
    have hm0 := hm
    simp only [Memory.wfFrom, Bool.and_eq_true, decide_eq_true_eq] at hm
    cases n with
    | nil =>
      have := h c.1
      simp only [Memory.read, if_true] at this
      exact absurd this hm.1.2
    | cons d n =>
      have hn0 := hn
      simp only [Memory.wfFrom, Bool.and_eq_true, decide_eq_true_eq] at hn
      have hcd : c.1 = d.1 := by
        rcases Nat.lt_trichotomy c.1 d.1 with hlt | heq | hgt
        · have := h c.1
          simp only [Memory.read, if_true] at this
          rw [if_neg (by omega), Memory.read_of_lt hn.2 (by omega)] at this
          exact absurd this hm.1.2
        · exact heq
        · have := h d.1
          simp only [Memory.read, if_true] at this
          rw [if_neg (by omega), Memory.read_of_lt hm.2 (by omega)] at this
          exact absurd this.symm hn.1.2
      have hv : c.2 = d.2 := by
        have := h c.1
        simpa only [Memory.read, if_true, hcd] using this
      have hrest : m = n := by
        refine ih hm.2 hn.2 (fun a => ?_)
        by_cases ha : a = c.1
        · rw [Memory.read_of_lt hm.2 (by omega), Memory.read_of_lt hn.2 (by omega)]
        · have := h a
          simp only [Memory.read] at this
          rwa [if_neg ha, if_neg (by omega)] at this
      obtain ⟨c1, c2⟩ := c
      obtain ⟨d1, d2⟩ := d
      simp only at hcd hv
      rw [hcd, hv, hrest]

/-! Rows and bytes -/

theorem fbAddr_lt {r b : Nat} (hr : r < 32) (hb : b < 8) : fbAddr r b < 256 := by unfold fbAddr; omega

theorem fbAddr_inj {r b r' b' : Nat} (hb : b < 8) (hb' : b' < 8) : fbAddr r b = fbAddr r' b' ↔ r = r' ∧ b = b' := by
  unfold fbAddr; omega

theorem rowOf_lt (y : Byte) (i : Nat) : rowOf y i < 32 := Nat.mod_lt _ (by decide)
theorem byteIndex_lt (x : Byte) : byteIndex x < 8 := by unfold byteIndex; omega
theorem nextByteIndex_lt (x : Byte) : nextByteIndex x < 8 := Nat.mod_lt _ (by decide)
theorem colOffset_lt (x : Byte) : colOffset x < 8 := Nat.mod_lt _ (by decide)
theorem nextByteIndex_ne (x : Byte) : nextByteIndex x ≠ byteIndex x := by
  have := byteIndex_lt x
  unfold nextByteIndex; omega

theorem Memory.wf_fbXor {m : Memory} {r b : Nat} (v : Byte) (h : Memory.wf m = true) (hr : r < 32) (hb : b < 8) :
    Memory.wf (fbXor m r b v) = true := Memory.wf_write _ h (fbAddr_lt hr hb)

/-- A framebuffer byte after a read-modify-write of another or the same byte (R54, R55). -/
theorem fbRead_fbXor {m : Memory} {r b r' b' : Nat} (v : Byte) (h : Memory.wf m = true) (hb : b < 8) (hb' : b' < 8) :
    fbRead (fbXor m r b v) r' b' = if r' = r ∧ b' = b then fbRead m r' b' ^^^ v else fbRead m r' b' := by
  unfold fbRead fbXor fbWrite
  rw [Memory.read_write _ _ _ h]
  simp only [fbAddr_inj hb' hb]
  split
  · next e => rw [e.1, e.2]; rfl
  · rfl

/-- Compositing one sprite byte keeps the canonical form. -/
theorem Memory.wf_compositeByte {m : Memory} {row : Nat} (x sb : Byte) (h : Memory.wf m = true) (hr : row < 32) :
    Memory.wf (compositeByte m x row sb) = true := by
  unfold compositeByte
  split
  · exact Memory.wf_fbXor _ h hr (byteIndex_lt x)
  · exact Memory.wf_fbXor _ (Memory.wf_fbXor _ h hr (byteIndex_lt x)) hr (nextByteIndex_lt x)

/-- Compositing a sprite keeps the canonical form. -/
theorem Memory.wf_compositeFrom (x y : Byte) (i : Nat) (sprite : List Byte) {m : Memory} (h : Memory.wf m = true) :
    Memory.wf (compositeFrom x y i sprite m) = true := by
  induction sprite generalizing i m with
  | nil => exact h
  | cons sb rest ih => exact ih _ (Memory.wf_compositeByte x sb h (rowOf_lt y i))

/-- What compositing one sprite byte adds to a framebuffer byte: a piece of it, or nothing (R54, R55). -/
def maskByte (x : Byte) (row : Nat) (sb : Byte) (r b : Nat) : Byte :=
  if r = row then
    if colOffset x = 0 then (if b = byteIndex x then sb else 0#8)
    else if b = byteIndex x then firstPiece x sb
    else if b = nextByteIndex x then secondPiece x sb
    else 0#8
  else 0#8

/-- A framebuffer byte after one sprite byte was composited. -/
theorem fbRead_compositeByte {m : Memory} (x : Byte) (row : Nat) (sb : Byte) {r b : Nat} (h : Memory.wf m = true)
    (hrow : row < 32) (hb : b < 8) :
    fbRead (compositeByte m x row sb) r b = fbRead m r b ^^^ maskByte x row sb r b := by
  unfold compositeByte maskByte
  by_cases h0 : colOffset x = 0
  · simp only [h0, if_true]
    rw [fbRead_fbXor _ h (byteIndex_lt x) hb]
    split_ifs <;> simp_all
  · simp only [h0, if_false]
    rw [fbRead_fbXor _ (Memory.wf_fbXor _ h hrow (byteIndex_lt x)) (nextByteIndex_lt x) hb,
      fbRead_fbXor _ h (byteIndex_lt x) hb]
    have hne := nextByteIndex_ne x
    split_ifs <;> simp_all

end Sys2Proof.Machine
end

