-- ==== Sys2Proof/Laws/Exchange.lean ====
section
/-! SUPPORT. The answers to come, the four primitive exchanges, and what every procedure built from them shares: it only
appends to the trace and uses up answers in order. -/

namespace Sys2Proof.Machine

/-! The state after a run of exchanges. -/

/-- `s` after exchanges that left `events`, oldest first, and the latches at `o`. -/
def State.upto (s : State) (events : List Event) (o : Latches) : State :=
  { s with env := s.env.drop events.length, log := events.reverse ++ s.log, out := o }

section
variable (s : State) (es : List Event) (o : Latches)

@[simp] theorem State.upto_fb : (s.upto es o).fb = s.fb := rfl
@[simp] theorem State.upto_keymap : (s.upto es o).keymap = s.keymap := rfl
@[simp] theorem State.upto_out : (s.upto es o).out = o := rfl
@[simp] theorem State.upto_operands : (s.upto es o).operands = s.operands := rfl
@[simp] theorem State.upto_result : (s.upto es o).result = s.result := rfl
@[simp] theorem State.upto_seq : (s.upto es o).seq = s.seq := rfl
@[simp] theorem State.upto_cmdIn : (s.upto es o).cmdIn = s.cmdIn := rfl
@[simp] theorem State.upto_responses : (s.upto es o).responses = s.responses := rfl
@[simp] theorem State.upto_log : (s.upto es o).log = es.reverse ++ s.log := rfl
@[simp] theorem State.upto_env : (s.upto es o).env = s.env.drop es.length := rfl

end

@[simp] theorem State.upto_nil (s : State) : s.upto [] s.out = s := rfl

/-- Two runs of exchanges are one. -/
@[simp] theorem State.upto_upto (s : State) (es fs : List Event) (o p : Latches) :
    (s.upto es o).upto fs p = s.upto (es ++ fs) p := by
  simp [State.upto, List.drop_drop]

theorem State.after_eq_upto (s : State) (e : Event) : s.after e = s.upto [e] s.out := rfl

/-! The answers. -/

theorem State.answer_eq_answerAt (s : State) : s.answer = s.answerAt 0 := by
  unfold State.answer State.answerAt
  cases h : s.env with
  | nil => simp
  | cons a rest => simp

/-- The answers to come depend on the environment's list and on the length of the trace alone. -/
theorem State.answerAt_congr {s t : State} (he : s.env = t.env) (hl : s.log.length = t.log.length) (k : Nat) :
    s.answerAt k = t.answerAt k := by
  unfold State.answerAt; rw [he, hl]

theorem State.answerAt_of_ran {s t : State} {es : List Event} (he : t.env = s.env.drop es.length)
    (hl : t.log = es.reverse ++ s.log) (k : Nat) : t.answerAt k = s.answerAt (es.length + k) := by
  unfold State.answerAt
  rw [he, hl]
  simp only [List.getElem?_drop, List.length_append, List.length_reverse]
  cases s.env[es.length + k]? with
  | some a => rfl
  | none => simp only; congr 1; omega

@[simp] theorem State.answerAt_upto (s : State) (es : List Event) (o : Latches) (k : Nat) :
    (s.upto es o).answerAt k = s.answerAt (es.length + k) := State.answerAt_of_ran rfl rfl k

@[simp] theorem State.levelAt_upto (s : State) (es : List Event) (o : Latches) (k : Nat) :
    (s.upto es o).levelAt k = s.levelAt (es.length + k) := by
  unfold State.levelAt; rw [State.answerAt_upto]

@[simp] theorem State.answerAt_load (s : State) (o : Operands) (k : Nat) : (s.load o).answerAt k = s.answerAt k := rfl

theorem State.AllSucceed.mono {s : State} {m n : Nat} (h : s.AllSucceed n) (hm : m ≤ n) : s.AllSucceed m :=
  fun k hk => h k (Nat.lt_of_lt_of_le hk hm)

/-- After `es.length` exchanges the rest of the run still succeeds. -/
theorem State.AllSucceed.upto {s : State} {es : List Event} {n m : Nat} (h : s.AllSucceed n)
    (hm : es.length + m ≤ n) (o : Latches) : (s.upto es o).AllSucceed m := by
  intro k hk
  rw [State.answerAt_upto]
  exact h _ (by omega)

theorem State.AllSucceed.load {s : State} {n : Nat} (h : s.AllSucceed n) (o : Operands) : (s.load o).AllSucceed n := h

/-- A next exchange that does not fail succeeds with the level it would read. -/
theorem State.answer_of_succeeds {s : State} (h : s.answerAt 0 ≠ .fails) : s.answer = .succeeds (s.levelAt 0) := by
  rw [State.answer_eq_answerAt]
  unfold State.levelAt
  cases h' : s.answerAt 0 with
  | fails => exact absurd h' h
  | succeeds v => rfl

/-- A list of enough successes makes the next exchanges succeed. -/
theorem State.allSucceed_of_env {s : State} {n : Nat} (h : ∀ k < n, ∃ v, s.env[k]? = some (.succeeds v)) :
    s.AllSucceed n := by
  intro k hk
  obtain ⟨v, hv⟩ := h k hk
  unfold State.answerAt
  rw [hv]
  simp

theorem State.allSucceed_replicate {s : State} {n : Nat} (v : Level) (h : s.env = List.replicate n (.succeeds v)) :
    s.AllSucceed n :=
  State.allSucceed_of_env (fun k hk => ⟨v, by rw [h, List.getElem?_replicate, if_pos hk]⟩)

/-! The primitive exchanges that succeed. -/

theorem pinWrite_ok {s : State} (l : Line) (v : Level) (h : s.answerAt 0 ≠ .fails) :
    pinWrite l v s = (.ok (), s.upto [.wrote l v] (s.out.set l v)) := by
  unfold pinWrite
  rw [State.answer_of_succeeds h]
  rfl

theorem pinRead_ok {s : State} (r : Line4) (h : s.answerAt 0 ≠ .fails) :
    pinRead r s = (.ok (s.levelAt 0), s.upto [.read r (s.levelAt 0)] s.out) := by
  unfold pinRead
  rw [State.answer_of_succeeds h]
  rfl

theorem busWrite_ok {s : State} (bytes : List Byte) (h : s.answerAt 0 ≠ .fails) :
    busWrite bytes s = (.ok (), s.upto [.sent bytes] s.out) := by
  unfold busWrite
  rw [State.answer_of_succeeds h]
  rfl

theorem delay_ok {s : State} (h : s.answerAt 0 ≠ .fails) : delay s = (.ok (), s.upto [.waited 500] s.out) := by
  unfold delay
  rw [State.answer_of_succeeds h]
  rfl

/-! The primitive exchanges that fail. -/

theorem pinWrite_fails {s : State} (l : Line) (v : Level) (h : s.answerAt 0 = .fails) :
    pinWrite l v s =
      (.err l.kind, s.upto [.writeFailed l v] (s.out.set l (Config.freeLevel s.log.length))) := by
  unfold pinWrite
  rw [State.answer_eq_answerAt, h]
  rfl

theorem pinRead_fails {s : State} (r : Line4) (h : s.answerAt 0 = .fails) :
    pinRead r s = (.err .pinRead, s.upto [.readFailed r] s.out) := by
  unfold pinRead
  rw [State.answer_eq_answerAt, h]
  rfl

theorem busWrite_fails {s : State} (bytes : List Byte) (h : s.answerAt 0 = .fails) :
    busWrite bytes s = (.err .busWrite, s.upto [.sendFailed bytes] s.out) := by
  unfold busWrite
  rw [State.answer_eq_answerAt, h]
  rfl

theorem delay_fails {s : State} (h : s.answerAt 0 = .fails) : delay s = (.err .delay, s.upto [.waitFailed 500] s.out) := by
  unfold delay
  rw [State.answer_eq_answerAt, h]
  rfl

/-! Sequencing. -/

theorem andThen_of_ok {α β : Type} {p : Proc α} {f : α → Proc β} {s t : State} {v : α} (h : p s = (.ok v, t)) :
    andThen p f s = f v t := by unfold andThen; rw [h]

theorem andThen_of_err {α β : Type} {p : Proc α} {f : α → Proc β} {s t : State} {k : Kind} (h : p s = (.err k, t)) :
    andThen p f s = (.err k, t) := by unfold andThen; rw [h]

/-- A sequence that yields a value went through both parts (the inversion of `?`). -/
theorem andThen_eq_ok {α β : Type} {p : Proc α} {f : α → Proc β} {s t : State} {w : β}
    (h : andThen p f s = (.ok w, t)) : ∃ v u, p s = (.ok v, u) ∧ f v u = (.ok w, t) := by
  unfold andThen at h
  cases hp : p s with
  | mk y u =>
    rw [hp] at h
    cases y with
    | ok v => exact ⟨v, u, rfl, h⟩
    | err k => simp at h

@[simp] theorem respond_ok (v : BitVec 5) (s : State) : respond (.ok v, s) = respondOk v s := rfl
@[simp] theorem respond_err (k : Kind) (s : State) : respond (.err k, s) = abort k s := rfl

/-- A property of how a procedure changes the state, whatever the answers are. -/
def Always {α : Type} (R : State → State → Prop) (p : Proc α) : Prop := ∀ s, R s (p s).2

/-- What each primitive exchange does to the state, for a relation that composes. -/
theorem Always.andThen {α β : Type} {R : State → State → Prop} (htrans : ∀ {a b c}, R a b → R b c → R a c)
    {p : Proc α} {f : α → Proc β} (hp : Always R p) (hf : ∀ v, Always R (f v)) : Always R (andThen p f) := by
  intro s
  unfold Machine.andThen
  have h1 := hp s
  cases h : p s with
  | mk y u =>
    rw [h] at h1
    cases y with
    | ok v => exact htrans h1 (hf v u)
    | err k => exact h1

theorem Always.forEach {ι : Type} {R : State → State → Prop} (hrefl : ∀ a, R a a)
    (htrans : ∀ {a b c}, R a b → R b c → R a c) (l : List ι) {body : ι → Proc Unit} (hb : ∀ i, Always R (body i)) :
    Always R (forEach l body) := by
  induction l with
  | nil => exact fun s => hrefl s
  | cons i rest ih => exact Always.andThen (R := R) htrans (hb i) (fun _ => ih)

end Sys2Proof.Machine
end

