-- ==== Sys2Proof/Laws/Display.lean ====
section
/-! SUPPORT. The display procedures when their exchanges succeed: one law for each (spec rules R140 to R147, R150, R176,
R190, R195). -/

namespace Sys2Proof.Machine

/-- The latches a successful transaction leaves: chip-select released, mode-select at its level (R140). -/
def Latches.afterFrame (o : Latches) (mode : Level) : Latches := { o with cs := .high, dc := mode }

@[simp] theorem Latches.afterFrame_afterFrame (o : Latches) (m n : Level) :
    (o.afterFrame m).afterFrame n = o.afterFrame n := rfl

/-- `s` after a successful run of display exchanges. -/
def State.shown (s : State) (events : List Event) (mode : Level) : State := s.upto events (s.out.afterFrame mode)

theorem State.shown_shown (s : State) (es fs : List Event) (m n : Level) :
    (s.shown es m).shown fs n = s.shown (es ++ fs) n := by
  simp [State.shown]

theorem State.AllSucceed.shown {s : State} {es : List Event} {n m : Nat} (h : s.AllSucceed n)
    (hm : es.length + m ≤ n) (mode : Level) : (s.shown es mode).AllSucceed m := h.upto hm _

@[simp] theorem frameEvents_length (m : Level) (bytes : List Byte) : (frameEvents m bytes).length = 4 := rfl

@[simp] theorem columnEvents_length (a : Nat) (payload : List Byte) : (columnEvents payload a).length = 12 := rfl

@[simp] theorem rowEvents_length (row : Nat) (payload : List Byte) : (rowEvents row payload).length = 24 := rfl

@[simp] theorem clearEvents_length : clearEvents.length = 768 := by
  simp only [clearEvents, List.length_flatMap, columnEvents_length]
  decide

@[simp] theorem xorEvents_length (x y : Byte) (i : Nat) (sprite : List Byte) (m : Memory) :
    (xorEvents x y i sprite m).length = 24 * sprite.length := by
  induction sprite generalizing i m with
  | nil => rfl
  | cons sb rest ih => simp [xorEvents, ih]; omega

@[simp] theorem configEvents_length : configEvents.length = 28 := rfl
@[simp] theorem pulseEvents_length : pulseEvents.length = 3 := rfl

@[simp] theorem initEvents_length : initEvents.length = 803 := by
  simp [initEvents]

theorem transaction_ok {s : State} (mode : Level) (bytes : List Byte) (h : s.AllSucceed 4) :
    transaction mode bytes s = (.ok (), s.shown (frameEvents mode bytes) mode) := by
  unfold transaction transactionBody
  rw [pinWrite_ok _ _ (h 0 (by decide))]
  simp only
  rw [andThen_of_ok (pinWrite_ok _ _ (by simpa using h 1 (by decide))),
    busWrite_ok _ (by simpa using h 2 (by decide))]
  simp only
  rw [pinWrite_ok _ _ (by simpa using h 3 (by decide))]
  simp [State.shown, frameEvents, Latches.set, Latches.afterFrame]

theorem simpleCmd_ok {s : State} (c : Byte) (h : s.AllSucceed 4) :
    simpleCmd c s = (.ok (), s.shown (frameEvents .low [c]) .low) := transaction_ok _ _ h

theorem paramCmd_ok {s : State} (c p : Byte) (h : s.AllSucceed 4) :
    paramCmd c p s = (.ok (), s.shown (frameEvents .low [c, p]) .low) := transaction_ok _ _ h

theorem dataFrame_ok {s : State} (payload : List Byte) (h : s.AllSucceed 4) :
    dataFrame payload s = (.ok (), s.shown (frameEvents .high payload) .high) := transaction_ok _ _ h

theorem writeColumn_ok {s : State} (a : Nat) (payload : List Byte) (h : s.AllSucceed 12) :
    writeColumn a payload s = (.ok (), s.shown (columnEvents payload a) .high) := by
  have hset : setColumn a s = (.ok (), s.shown (frameEvents .low [Config.colLoCmd (addrLo a)] ++
      frameEvents .low [Config.colHiCmd (addrHi a)]) .low) := by
    unfold setColumn
    rw [andThen_of_ok (simpleCmd_ok _ (h.mono (by decide))),
      simpleCmd_ok _ (h.shown (by simp) _), State.shown_shown]
  unfold writeColumn
  rw [andThen_of_ok hset, dataFrame_ok _ (h.shown (by simp) _), State.shown_shown]
  rfl

theorem renderRow_ok {s : State} (row : Nat) (h : s.AllSucceed 24) :
    renderRow row s = (.ok (), s.shown (rowEvents row (encodeRow s.fb row)) .high) := by
  unfold renderRow
  rw [andThen_of_ok (writeColumn_ok _ _ (h.mono (by decide))),
    writeColumn_ok _ _ (h.shown (by simp) _), State.shown_shown]
  rfl

/-- The latches after a run of whole data-ending units: untouched if there were none. -/
def Latches.afterUnits (o : Latches) (n : Nat) : Latches := if n = 0 then o else o.afterFrame .high

/-- The columns of `ClearBody` (R195). -/
theorem forEach_writeColumn_ok {s : State} (l : List Nat) (payload : List Byte) (h : s.AllSucceed (12 * l.length)) :
    forEach l (fun a => writeColumn a payload) s =
      (.ok (), s.upto (l.flatMap (columnEvents payload)) (s.out.afterUnits l.length)) := by
  induction l generalizing s with
  | nil => rfl
  | cons a rest ih =>
    unfold forEach
    rw [andThen_of_ok (writeColumn_ok _ _ (h.mono (by simp only [List.length_cons]; omega))), ih (h.shown (by simp only [columnEvents_length, List.length_cons]; omega) _)]
    simp only [State.shown, State.upto_upto, State.upto_out, List.flatMap_cons, List.length_cons]
    cases rest <;> rfl

theorem clearBody_ok {s : State} (h : s.AllSucceed 768) :
    clearBody s = (.ok (), (s.shown clearEvents .high).zeroFb) := by
  unfold clearBody
  have h64 : (List.range 64).length = 64 := by simp
  rw [andThen_of_ok (forEach_writeColumn_ok _ _ (by rw [h64]; exact h)), h64]
  rfl

theorem resetPulse_ok {s : State} (h : s.AllSucceed 3) :
    resetPulse s = (.ok (), s.upto pulseEvents { s.out with rst := .high }) := by
  unfold resetPulse
  rw [andThen_of_ok (pinWrite_ok _ _ (h 0 (by decide))),
    andThen_of_ok (pinWrite_ok _ _ (by simpa using h 1 (by decide))),
    pinWrite_ok _ _ (by simpa using h 2 (by decide))]
  simp [pulseEvents, Latches.set]

theorem configBody_ok {s : State} (h : s.AllSucceed 28) :
    configBody s = (.ok (), s.shown configEvents .low) := by
  unfold configBody
  rw [andThen_of_ok (paramCmd_ok _ _ (h.mono (by decide)))]
  rw [andThen_of_ok (paramCmd_ok _ _ (h.shown (by simp) _)), State.shown_shown]
  rw [andThen_of_ok (simpleCmd_ok _ (h.shown (by simp) _)), State.shown_shown]
  rw [andThen_of_ok (paramCmd_ok _ _ (h.shown (by simp) _)), State.shown_shown]
  rw [andThen_of_ok (paramCmd_ok _ _ (h.shown (by simp) _)), State.shown_shown]
  rw [andThen_of_ok (paramCmd_ok _ _ (h.shown (by simp) _)), State.shown_shown]
  rw [paramCmd_ok _ _ (h.shown (by simp) _), State.shown_shown]
  rfl

/-- The state XOR's loop leaves when every exchange succeeds: the sprite composited, the trace of its renderings (R190). -/
theorem xorFrom_ok {s : State} (x y : Byte) (i : Nat) (sprite : List Byte) (h : s.AllSucceed (24 * sprite.length)) :
    xorFrom x y i sprite s =
      (.ok (), { s.upto (xorEvents x y i sprite s.fb) (s.out.afterUnits sprite.length) with
        fb := compositeFrom x y i sprite s.fb }) := by
  induction sprite generalizing i s with
  | nil => rfl
  | cons sb rest ih =>
    unfold xorFrom
    have hs : ({ s with fb := compositeByte s.fb x (rowOf y i) sb } : State).AllSucceed (24 * (rest.length + 1)) :=
      fun k hk => h k (by simpa using hk)
    simp only
    rw [andThen_of_ok (renderRow_ok _ (hs.mono (by omega))), ih _ (hs.shown (by simp; omega) _)]
    simp only [State.shown, State.upto, xorEvents, compositeFrom, List.drop_drop, List.length_append,
      List.reverse_append, List.append_assoc, List.length_cons]
    cases rest <;> rfl

end Sys2Proof.Machine
end

