-- ==== Sys2Proof/Laws/Keypad.lean ====
section
/-! SUPPORT. The keypad procedures when their exchanges succeed: one law for each (spec rules R111 to R118). -/

namespace Sys2Proof.Machine

/-- The latches with the four columns replaced. -/
def Latches.withCols (o : Latches) (cols : Quad Level) : Latches := { o with cols := cols }

@[simp] theorem Latches.withCols_cols (o : Latches) (cols : Quad Level) : (o.withCols cols).cols = cols := rfl
@[simp] theorem Latches.withCols_withCols (o : Latches) (p q : Quad Level) :
    (o.withCols p).withCols q = o.withCols q := rfl
theorem Latches.set_col (o : Latches) (c : Line4) (v : Level) :
    o.set (.col c) v = o.withCols (o.cols.set c v) := rfl

@[simp] theorem readEvents_length (s : State) (k : Nat) : (readEvents s k).length = 4 := rfl
@[simp] theorem driveEvents_length (v : Level) : (driveEvents v).length = 4 := rfl
@[simp] theorem missEvents_length (s : State) (c : Line4) : (missEvents s c).length = 7 := rfl
@[simp] theorem hitEvents_length (s : State) (c : Line4) : (hitEvents s c).length = 6 := rfl

@[simp] theorem State.sampleAt_upto (s : State) (es : List Event) (o : Latches) (k : Nat) :
    (s.upto es o).sampleAt k = s.sampleAt (es.length + k) := by
  simp only [State.sampleAt, State.levelAt_upto, Nat.add_assoc]

@[simp] theorem readEvents_upto (s : State) (es : List Event) (o : Latches) (k : Nat) :
    readEvents (s.upto es o) k = readEvents s (es.length + k) := by
  simp only [readEvents, State.levelAt_upto, Nat.add_assoc]

theorem readRows_ok {s : State} (h : s.AllSucceed 4) :
    readRows s = (.ok (s.sampleAt 0), s.upto (readEvents s 0) s.out) := by
  simp only [readRows, lines4, readRowsFrom]
  rw [andThen_of_ok (pinRead_ok _ (h 0 (by decide))),
    andThen_of_ok (pinRead_ok _ (by simpa using h 1 (by decide))),
    andThen_of_ok (pinRead_ok _ (by simpa using h 2 (by decide))),
    andThen_of_ok (pinRead_ok _ (by simpa using h 3 (by decide)))]
  simp [pureP, readEvents, State.sampleAt]

theorem driveAll_ok {s : State} (v : Level) (h : s.AllSucceed 4) :
    driveAll v s = (.ok (), s.upto (driveEvents v) (s.out.withCols (Quad.all v))) := by
  simp only [driveAll, lines4, forEach]
  rw [andThen_of_ok (pinWrite_ok _ _ (h 0 (by decide))),
    andThen_of_ok (pinWrite_ok _ _ (by simpa using h 1 (by decide))),
    andThen_of_ok (pinWrite_ok _ _ (by simpa using h 2 (by decide))),
    andThen_of_ok (pinWrite_ok _ _ (by simpa using h 3 (by decide)))]
  simp [pureP, driveEvents, Latches.set_col]

theorem restore_ok {s : State} (h : s.AllSucceed 4) :
    restore s = (none, s.upto (driveEvents .high) (s.out.withCols (Quad.all .high))) := by
  simp only [restore, lines4, restoreFrom]
  rw [pinWrite_ok _ _ (h 0 (by decide))]
  simp only
  rw [pinWrite_ok _ _ (by simpa using h 1 (by decide))]
  simp only
  rw [pinWrite_ok _ _ (by simpa using h 2 (by decide))]
  simp only
  rw [pinWrite_ok _ _ (by simpa using h 3 (by decide))]
  simp [driveEvents, Latches.set_col]

/-- Steps 2a to 2c of one column: energized, settled, sampled (R116). -/
theorem scanColumns_sampled {s : State} (c : Line4) (rest : List Line4) (h : s.AllSucceed 6) :
    scanColumns (c :: rest) s =
      match decodeOneHot (s.sampleAt 2) with
      | some r => (.ok (some (Keymap.entry s.keymap r c)),
          s.upto ([.wrote (.col c) .high, .waited 500] ++ readEvents s 2) (s.out.set (.col c) .high))
      | none => andThen (pinWrite (.col c) .low) (fun _ => scanColumns rest)
          (s.upto ([.wrote (.col c) .high, .waited 500] ++ readEvents s 2) (s.out.set (.col c) .high)) := by
  simp only [scanColumns]
  rw [andThen_of_ok (pinWrite_ok _ _ (h 0 (by decide))),
    andThen_of_ok (delay_ok (by simpa using h 1 (by decide)))]
  simp only [State.upto_upto, State.upto_out]
  rw [andThen_of_ok (readRows_ok (h.upto (by simp) _))]
  simp only [State.sampleAt_upto, readEvents_upto, State.upto_upto, State.upto_out, State.upto_keymap]
  simp only [List.length_cons, List.length_nil, List.length_append, Nat.add_zero, Nat.zero_add]
  cases decodeOneHot (s.sampleAt 2) <;> rfl

/-- A column that gives no key is driven low again and the scan goes on (R116). -/
theorem scanColumns_miss {s : State} (c : Line4) (rest : List Line4) (h : s.AllSucceed 7)
    (hnone : decodeOneHot (s.sampleAt 2) = none) :
    scanColumns (c :: rest) s =
      scanColumns rest
        (s.upto ([.wrote (.col c) .high, .waited 500] ++ readEvents s 2 ++ [.wrote (.col c) .low])
          (s.out.set (.col c) .low)) := by
  rw [scanColumns_sampled c rest (h.mono (by decide)), hnone]
  simp only
  rw [andThen_of_ok (pinWrite_ok _ _ (by simpa using h 6 (by decide)))]
  have : (s.out.set (.col c) .high).set (.col c) .low = s.out.set (.col c) .low := by
    simp only [Latches.set]
    congr 1
    fin_cases c <;> rfl
  simp [this]

/-- A column whose sample is one-hot ends the scan with its key (R116). -/
theorem scanColumns_hit {s : State} (c r : Line4) (rest : List Line4) (h : s.AllSucceed 6)
    (hsome : decodeOneHot (s.sampleAt 2) = some r) :
    scanColumns (c :: rest) s =
      (.ok (some (Keymap.entry s.keymap r c)),
        s.upto ([.wrote (.col c) .high, .waited 500] ++ readEvents s 2) (s.out.set (.col c) .high)) := by
  rw [scanColumns_sampled c rest h, hsome]

end Sys2Proof.Machine
end

