-- ==== Sys2Proof/Laws/Frames.lean ====
section
/-! SUPPORT. What every procedure can do to the state, whatever the environment answers: it appends to the trace, takes one
answer for each exchange, and changes nothing but the framebuffer and the latches. -/

namespace Sys2Proof.Machine

/-- `t` is `s` after some exchanges that changed at most the framebuffer and the latches. -/
def Exchanged (s t : State) : Prop :=
  ∃ es : List Event, t.log = es.reverse ++ s.log ∧ t.env = s.env.drop es.length ∧ t.keymap = s.keymap ∧
    t.operands = s.operands ∧ t.result = s.result ∧ t.seq = s.seq ∧ t.cmdIn = s.cmdIn ∧ t.responses = s.responses

/-- `t` is `s` after exchanges of the display side: the framebuffer stays, and so do the columns. -/
def DisplaySide (s t : State) : Prop := t.fb = s.fb ∧ t.out.cols = s.out.cols

/-- `t` is `s` after exchanges of the keypad side: the framebuffer stays, and so do the display's three lines. -/
def KeypadSide (s t : State) : Prop :=
  t.fb = s.fb ∧ t.out.cs = s.out.cs ∧ t.out.dc = s.out.dc ∧ t.out.rst = s.out.rst

theorem Exchanged.refl (s : State) : Exchanged s s := ⟨[], rfl, rfl, rfl, rfl, rfl, rfl, rfl, rfl⟩

theorem Exchanged.trans {s t u : State} (h : Exchanged s t) (g : Exchanged t u) : Exchanged s u := by
  obtain ⟨es, h1, h2, h3, h4, h5, h6, h7, h8⟩ := h
  obtain ⟨fs, g1, g2, g3, g4, g5, g6, g7, g8⟩ := g
  refine ⟨es ++ fs, ?_, ?_, g3.trans h3, g4.trans h4, g5.trans h5, g6.trans h6, g7.trans h7, g8.trans h8⟩
  · rw [g1, h1]; simp
  · rw [g2, h2]; simp [List.drop_drop]

theorem DisplaySide.trans {s t u : State} (h : DisplaySide s t) (g : DisplaySide t u) : DisplaySide s u :=
  ⟨g.1.trans h.1, g.2.trans h.2⟩

theorem KeypadSide.trans {s t u : State} (h : KeypadSide s t) (g : KeypadSide t u) : KeypadSide s u :=
  ⟨g.1.trans h.1, g.2.1.trans h.2.1, g.2.2.1.trans h.2.2.1, g.2.2.2.trans h.2.2.2⟩

/-- One exchange with some latches after it. -/
theorem Exchanged.of_upto (s : State) (es : List Event) (o : Latches) : Exchanged s (s.upto es o) :=
  ⟨es, rfl, rfl, rfl, rfl, rfl, rfl, rfl, rfl⟩

/-! The primitive exchanges. -/

theorem pinWrite_cases (l : Line) (v : Level) (s : State) :
    pinWrite l v s = (.ok (), s.upto [.wrote l v] (s.out.set l v)) ∨
    pinWrite l v s = (.err l.kind, s.upto [.writeFailed l v] (s.out.set l (Config.freeLevel s.log.length))) := by
  by_cases h : s.answerAt 0 = .fails
  · exact .inr (pinWrite_fails l v h)
  · exact .inl (pinWrite_ok l v h)

theorem pinRead_cases (r : Line4) (s : State) :
    (∃ v, pinRead r s = (.ok v, s.upto [.read r v] s.out)) ∨
    pinRead r s = (.err .pinRead, s.upto [.readFailed r] s.out) := by
  by_cases h : s.answerAt 0 = .fails
  · exact .inr (pinRead_fails r h)
  · exact .inl ⟨_, pinRead_ok r h⟩

theorem busWrite_cases (bytes : List Byte) (s : State) :
    busWrite bytes s = (.ok (), s.upto [.sent bytes] s.out) ∨
    busWrite bytes s = (.err .busWrite, s.upto [.sendFailed bytes] s.out) := by
  by_cases h : s.answerAt 0 = .fails
  · exact .inr (busWrite_fails bytes h)
  · exact .inl (busWrite_ok bytes h)

theorem delay_cases (s : State) :
    delay s = (.ok (), s.upto [.waited 500] s.out) ∨ delay s = (.err .delay, s.upto [.waitFailed 500] s.out) := by
  by_cases h : s.answerAt 0 = .fails
  · exact .inr (delay_fails h)
  · exact .inl (delay_ok h)

theorem pinWrite_exchanged (l : Line) (v : Level) : Always Exchanged (pinWrite l v) := by
  intro s
  rcases pinWrite_cases l v s with h | h <;> rw [h] <;> exact Exchanged.of_upto _ _ _

theorem pinRead_exchanged (r : Line4) : Always Exchanged (pinRead r) := by
  intro s
  rcases pinRead_cases r s with ⟨v, h⟩ | h <;> rw [h] <;> exact Exchanged.of_upto _ _ _

theorem busWrite_exchanged (bytes : List Byte) : Always Exchanged (busWrite bytes) := by
  intro s
  rcases busWrite_cases bytes s with h | h <;> rw [h] <;> exact Exchanged.of_upto _ _ _

theorem delay_exchanged : Always Exchanged delay := by
  intro s
  rcases delay_cases s with h | h <;> rw [h] <;> exact Exchanged.of_upto _ _ _

/-- A write of a control line stays on the display side. -/
theorem pinWrite_displaySide {l : Line} (v : Level) (hl : ∀ c, l ≠ .col c) : Always DisplaySide (pinWrite l v) := by
  intro s
  rcases pinWrite_cases l v s with h | h <;> rw [h] <;> refine ⟨rfl, ?_⟩ <;>
    cases l <;> first | rfl | exact absurd rfl (hl _)

theorem busWrite_displaySide (bytes : List Byte) : Always DisplaySide (busWrite bytes) := by
  intro s
  rcases busWrite_cases bytes s with h | h <;> rw [h] <;> exact ⟨rfl, rfl⟩

theorem pinWrite_keypadSide (c : Line4) (v : Level) : Always KeypadSide (pinWrite (.col c) v) := by
  intro s
  rcases pinWrite_cases (.col c) v s with h | h <;> rw [h] <;> exact ⟨rfl, rfl, rfl, rfl⟩

theorem pinRead_keypadSide (r : Line4) : Always KeypadSide (pinRead r) := by
  intro s
  rcases pinRead_cases r s with ⟨v, h⟩ | h <;> rw [h] <;> exact ⟨rfl, rfl, rfl, rfl⟩

theorem delay_keypadSide : Always KeypadSide delay := by
  intro s
  rcases delay_cases s with h | h <;> rw [h] <;> exact ⟨rfl, rfl, rfl, rfl⟩

/-! The display procedures. -/

/-- A transaction does what its four exchanges do, in any relation that composes. -/
theorem Always.transaction {R : State → State → Prop} (htrans : ∀ {a b c}, R a b → R b c → R a c)
    (hcs : ∀ v, Always R (pinWrite .cs v)) (hdc : ∀ v, Always R (pinWrite .dc v)) (hbus : ∀ b, Always R (busWrite b))
    (mode : Level) (bytes : List Byte) : Always R (transaction mode bytes) := by
  intro s
  have hbody : Always R (transactionBody mode bytes) := Always.andThen (R := R) htrans (hdc mode) (fun _ => hbus bytes)
  unfold Machine.transaction
  have h1 := hcs .low s
  cases hp : pinWrite .cs .low s with
  | mk y s1 =>
    rw [hp] at h1
    cases y with
    | err k => exact h1
    | ok v =>
      have h2 := hbody s1
      simp only
      cases hb : transactionBody mode bytes s1 with
      | mk z s2 =>
        rw [hb] at h2
        have h3 := htrans (htrans h1 h2) (hcs .high s2)
        cases z with
        | err k => exact h3
        | ok w => exact h3

theorem transaction_exchanged (mode : Level) (bytes : List Byte) : Always Exchanged (transaction mode bytes) :=
  Always.transaction (R := Exchanged) Exchanged.trans (pinWrite_exchanged _) (pinWrite_exchanged _) busWrite_exchanged
    mode bytes

theorem transaction_displaySide (mode : Level) (bytes : List Byte) : Always DisplaySide (transaction mode bytes) :=
  Always.transaction (R := DisplaySide) DisplaySide.trans (fun v => pinWrite_displaySide v (by simp))
    (fun v => pinWrite_displaySide v (by simp)) busWrite_displaySide mode bytes

theorem writeColumn_exchanged (a : Nat) (payload : List Byte) : Always Exchanged (writeColumn a payload) :=
  Always.andThen (R := Exchanged) Exchanged.trans
    (Always.andThen (R := Exchanged) Exchanged.trans (transaction_exchanged _ _) (fun _ => transaction_exchanged _ _))
    (fun _ => transaction_exchanged _ _)

theorem writeColumn_displaySide (a : Nat) (payload : List Byte) : Always DisplaySide (writeColumn a payload) :=
  Always.andThen (R := DisplaySide) DisplaySide.trans
    (Always.andThen (R := DisplaySide) DisplaySide.trans (transaction_displaySide _ _)
      (fun _ => transaction_displaySide _ _))
    (fun _ => transaction_displaySide _ _)

theorem renderRow_exchanged (row : Nat) : Always Exchanged (renderRow row) := fun s =>
  Always.andThen (R := Exchanged) Exchanged.trans (writeColumn_exchanged _ _) (fun _ => writeColumn_exchanged _ _) s

theorem renderRow_displaySide (row : Nat) : Always DisplaySide (renderRow row) := fun s =>
  Always.andThen (R := DisplaySide) DisplaySide.trans (writeColumn_displaySide _ _)
    (fun _ => writeColumn_displaySide _ _) s

/-! The keypad procedures. -/

theorem Always.readRows {R : State → State → Prop} (hrefl : ∀ a, R a a) (htrans : ∀ {a b c}, R a b → R b c → R a c)
    (hread : ∀ r, Always R (pinRead r)) : Always R readRows := by
  have h : ∀ (l : List Line4) (rows : BitVec 4), Always R (readRowsFrom l rows) := by
    intro l
    induction l with
    | nil => exact fun _ s => hrefl s
    | cons r rest ih => exact fun _ => Always.andThen (R := R) htrans (hread r) (fun _ => ih _)
  exact h lines4 0#4

/-- The scan does what its exchanges do, in any relation that composes. -/
theorem Always.scan {R : State → State → Prop} (hrefl : ∀ a, R a a) (htrans : ∀ {a b c}, R a b → R b c → R a c)
    (hread : ∀ r, Always R (pinRead r)) (hcol : ∀ c v, Always R (pinWrite (.col c) v)) (hdelay : Always R delay) :
    Always R scan := by
  have hcols : ∀ l : List Line4, Always R (scanColumns l) := by
    intro l
    induction l with
    | nil => exact fun s => hrefl s
    | cons c rest ih =>
      refine Always.andThen (R := R) htrans (hcol c .high) (fun _ => Always.andThen (R := R) htrans hdelay (fun _ =>
        Always.andThen (R := R) htrans (Always.readRows (R := R) hrefl htrans hread) (fun rows s => ?_)))
      cases decodeOneHot rows with
      | some r => exact hrefl s
      | none => exact Always.andThen (R := R) htrans (hcol c .low) (fun _ => ih) s
  exact Always.andThen (R := R) htrans (Always.forEach (R := R) hrefl htrans lines4 (fun c => hcol c .low))
    (fun _ => hcols lines4)

/-- The restoration does what its four writes do. -/
theorem restore_always {R : State → State → Prop} (hrefl : ∀ a, R a a) (htrans : ∀ {a b c}, R a b → R b c → R a c)
    (hcol : ∀ c v, Always R (pinWrite (.col c) v)) (s : State) : R s (restore s).2 := by
  have h : ∀ (l : List Line4) (first : Option Kind) (s : State), R s (restoreFrom l first s).2 := by
    intro l
    induction l with
    | nil => exact fun _ s => hrefl s
    | cons c rest ih =>
      intro first s
      have h1 := hcol c .high s
      unfold restoreFrom
      cases hp : pinWrite (.col c) .high s with
      | mk y s1 =>
        rw [hp] at h1
        cases y with
        | ok v => exact htrans h1 (ih _ s1)
        | err k => exact htrans h1 (ih _ s1)
  exact h lines4 none s

end Sys2Proof.Machine
end

