-- ==== Sys2Proof/Laws/PerInstr.lean ====
section
/-! SUPPORT. Per instruction: a well-formed instruction's encoding has the length the opcode table gives its row
(spec/30_encoding.md rules R88, R89, R91). -/

namespace Sys2Proof.Laws.EncodingLength

/-- The table's "length_bytes" of an instruction. -/
def bytes : Instr → Nat
  | .init => 1
  | .clear => 1
  | .xor _ _ sprite => 4 + sprite.length
  | .isAnyKeyPressed => 1
  | .readKey => 1
  | .setKeymap _ => 9
  | .reserved _ => 1
  | .response _ _ _ => 2
  | .panelSetStartLine => 2
  | .panelSetContrast => 2
  | .panelVerticalAddressing => 1
  | .panelSetOsc => 2
  | .panelSetPrecharge => 2
  | .panelSetVcom => 2
  | .panelSetOffset => 2
  | .panelDisplayOn => 1
  | .panelColumnLow _ => 1
  | .panelColumnHigh _ => 1
  | .panelData _ => 16

/-- The encoding is as long as the table says. -/
def Statement (i : Instr) : Prop := i.wellFormed = true → (encode i).length = bytes i

theorem init : Statement .init := fun _ => rfl
theorem clear : Statement .clear := fun _ => rfl
theorem xor (x y : Byte) (sprite : List Byte) : Statement (.xor x y sprite) := by
  intro _
  simp only [encode, bytes, List.length_cons]
  omega
theorem isAnyKeyPressed : Statement .isAnyKeyPressed := fun _ => rfl
theorem readKey : Statement .readKey := fun _ => rfl
theorem setKeymap (table : Keymap) : Statement (.setKeymap table) := fun _ => rfl
theorem reserved (opcode : Byte) : Statement (.reserved opcode) := fun _ => rfl
theorem response (cat : BitVec 2) (status : Nibble) (value : BitVec 5) : Statement (.response cat status value) :=
  fun _ => rfl
theorem panelSetStartLine : Statement .panelSetStartLine := fun _ => rfl
theorem panelSetContrast : Statement .panelSetContrast := fun _ => rfl
theorem panelVerticalAddressing : Statement .panelVerticalAddressing := fun _ => rfl
theorem panelSetOsc : Statement .panelSetOsc := fun _ => rfl
theorem panelSetPrecharge : Statement .panelSetPrecharge := fun _ => rfl
theorem panelSetVcom : Statement .panelSetVcom := fun _ => rfl
theorem panelSetOffset : Statement .panelSetOffset := fun _ => rfl
theorem panelDisplayOn : Statement .panelDisplayOn := fun _ => rfl
theorem panelColumnLow (n : Nibble) : Statement (.panelColumnLow n) := fun _ => rfl
theorem panelColumnHigh (n : Nibble) : Statement (.panelColumnHigh n) := fun _ => rfl
theorem panelData (payload : List Byte) : Statement (.panelData payload) := by
  intro h
  simpa [Instr.wellFormed, encode, bytes] using h

end Sys2Proof.Laws.EncodingLength
end

