-- ==== Sys2Proof/Tests/Slice0.lean ====
section
/-! SUPPORT. The model's own tests. Expected values are those of spec/95_test_vectors.md (vectors S, T and P, named in
each test's comment) or are read off the rule cited; none is the model's own answer. After them stands one witness for
each statement that has hypotheses: a concrete state and operands that meet all of them. -/

namespace Sys2Proof.Tests

open Sys2Proof.Machine

/-! ## Helpers -/

/-- The state an outcome carries. -/
def got (o : Host.Outcome State Fault Refusal) : Option State :=
  match o with
  | .next s => some s
  | .fault _ => none
  | .refused _ => none

/-- An answer of success whose sample is a bit. -/
def ok (b : Nat) : Answer := .succeeds (if b = 0 then .low else .high)

/-- `n` successes. -/
def oks (n : Nat) : List Answer := List.replicate n (ok 0)

/-- The four samples of one `ReadRows`, row 0 first. -/
def rows (r0 r1 r2 r3 : Nat) : List Answer := [ok r0, ok r1, ok r2, ok r3]

/-- The reset state with bytes at the command port and the environment's answers. -/
def start (cmd : List Byte) (env : List Answer) : State := { State.reset with cmdIn := cmd, env := env }

/-- The two response bytes, in numbers. -/
def answered (o : Host.Outcome State Fault Refusal) : Option (Nat × Nat) :=
  (got o).bind (fun s => s.responses.head?.map (fun p => (p.1.toNat, p.2.toNat)))

/-- How many trace events there are. -/
def events (o : Host.Outcome State Fault Refusal) : Option Nat := (got o).map (fun s => s.log.length)

/-- A framebuffer row, in numbers. -/
def rowAfter (o : Host.Outcome State Fault Refusal) (r : Nat) : Option (List Nat) :=
  (got o).map (fun s => (List.range 8).map (fun b => (s.fbByte r b).toNat))

/-- A list of numbers as bytes. -/
def bytes (l : List Nat) : List Byte := l.map (BitVec.ofNat 8)

/-- A list of bytes as numbers. -/
def nums (l : List Byte) : List Nat := l.map BitVec.toNat

/-- INIT standing before a panel transaction, with four successful exchanges to come. -/
def initAt (f : FramePos) : State :=
  { start [] (oks 4) with
    operands := { State.reset.operands with op := 0x00#8 }, seq := .busy .init (frameStart f) }

/-- The trace and the sequencer an outcome leaves. -/
def wired (o : Host.Outcome State Fault Refusal) : Option (List Event × Seq) := (got o).map (fun s => (s.trace, s.seq))

/-- The four events of one successful command transaction (R142, R143). -/
def command (bs : List Byte) : List Event := [.wrote .cs .low, .wrote .dc .low, .sent bs, .wrote .cs .high]

/-! ## Decoding: words written out from R81, R82, R87, R88, R92, R93 and R144 -/

theorem test_decode_one_byte_descriptors :
    decode .hostDescriptor [0b00000000#8] = .done .init [] ∧
    decode .hostDescriptor [0b00000001#8] = .done .clear [] ∧
    decode .hostDescriptor [0b00000011#8] = .done .isAnyKeyPressed [] ∧
    decode .hostDescriptor [0b00000100#8] = .done .readKey [] ∧
    decode .hostDescriptor [0b10011010#8] = .done (.reserved 0x9A#8) [] := by decide

/-- Vectors T10 d and T10 h. -/
theorem test_decode_xor :
    decode .hostDescriptor [0b00000010#8, 0b00111100#8, 0b00000101#8, 0b00000001#8, 0b11111111#8] =
      .done (.xor 60#8 5#8 [0xFF#8]) [] ∧
    decode .hostDescriptor (bytes [0x02, 0x05, 0x09, 0x00]) = .done (.xor 5#8 9#8 []) [] := by decide

/-- Vector T21. -/
theorem test_decode_set_keymap :
    decode .hostDescriptor (bytes [0x05, 0x01, 0x23, 0x45, 0x67, 0x89, 0xAB, 0xCD, 0xEF]) =
      .done (.setKeymap ⟨⟨0#4, 1#4, 2#4, 3#4⟩, ⟨4#4, 5#4, 6#4, 7#4⟩, ⟨8#4, 9#4, 10#4, 11#4⟩, ⟨12#4, 13#4, 14#4, 15#4⟩⟩)
        [] := by decide

/-- Vector T24: the length of a descriptor. -/
theorem test_decode_streams :
    decode .hostDescriptor (bytes [0x02, 0x00, 0x00, 0x00, 0x03]) = .done (.xor 0#8 0#8 []) [0x03#8] ∧
    decode .hostDescriptor (bytes [0x05, 0x12, 0x3F, 0x45, 0x6E, 0x78, 0x9D, 0xA0, 0xBC, 0x04]) =
      .done (.setKeymap defaultKeymap) [0x04#8] ∧
    decode .hostDescriptor (bytes [0x02, 0x00, 0x00, 0x02, 0xFF]) = .incomplete := by decide

/-- R88's examples `00 16` and `84 00`, and a byte with a bit set that the layout gives as zero. -/
theorem test_decode_response :
    decode .hostResponse [0b00000000#8, 0b00010110#8] = .done (.response 0b00#2 0x0#4 0x16#5) [] ∧
    decode .hostResponse [0b10000100#8, 0b00000000#8] = .done (.response 0b10#2 0x4#4 0#5) [] ∧
    decode .hostResponse [0b00010000#8, 0x00#8] = .rejected .responseBitSet ∧
    decode .hostResponse [0x00#8, 0b00100000#8] = .rejected .responseBitSet := by decide

/-- A pixel-data transaction carries sixteen bytes, no other number (R144). -/
theorem test_decode_panel_data :
    decode (.panelWire .high) zeroPayload = .done (.panelData zeroPayload) [] ∧
    decode (.panelWire .high) (zeroPayload.take 15) = .rejected .notSixteenBytes ∧
    decode (.panelWire .low) zeroPayload = .rejected .unknownCommand := by decide

/-- The bytes of the panel commands, parameters from R5 (R92, R93). -/
theorem test_encode_panel_commands :
    encode .panelSetStartLine = [Config.cmdStartLine, 0x00#8] ∧ encode .panelSetContrast = [Config.cmdContrast, 0x80#8] ∧
    encode .panelVerticalAddressing = [Config.cmdVerticalMode] ∧ encode .panelSetOsc = [Config.cmdOsc, 0x41#8] ∧
    encode .panelSetPrecharge = [Config.cmdPrecharge, 0x22#8] ∧ encode .panelSetVcom = [Config.cmdVcom, 0x35#8] ∧
    encode .panelSetOffset = [Config.cmdOffset, 0x60#8] ∧ encode .panelDisplayOn = [Config.cmdDisplayOn] ∧
    encode (.panelColumnLow 0xE#4) = [Config.colLoCmd 0xE#4] ∧ encode (.panelColumnHigh 3#4) = [Config.colHiCmd 3#4] :=
  ⟨rfl, rfl, rfl, rfl, rfl, rfl, rfl, rfl, rfl, rfl⟩

theorem test_decode_table_words :
    decodeTableWord 8 0x00 = some .init ∧ decodeTableWord 8 0x01 = some .clear ∧
    decodeTableWord 8 0x02 = some (.xor 0#8 0#8 []) ∧ decodeTableWord 40 0xFF01053C02 = some (.xor 60#8 5#8 [0xFF#8]) ∧
    decodeTableWord 8 0x05 = some (.setKeymap (Quad.all (Quad.all 0#4))) ∧ decodeTableWord 8 0x9A = some (.reserved 0x9A#8) ∧
    decodeTableWord 16 0xC800 = some (.response 0b11#2 0x8#4 0#5) ∧ decodeTableWord 16 0x1000 = none := by decide

theorem test_fetch_word_runs_the_word :
    step (State.reset.withFetchWord 8 0x00) = exec .init State.reset ∧
    step (State.reset.withFetchWord 8 0x02) = exec (.xor 0#8 0#8 []) State.reset ∧
    answered (step (State.reset.withFetchWord 8 0x05)) = some (0x00, 0x00) ∧
    answered (step (State.reset.withFetchWord 16 0xC800)) = some (0xC8, 0x00) := ⟨rfl, rfl, rfl, rfl⟩

/-! ## WellFormed: an ill-formed term for each check -/

theorem test_ill_formed_xor : (Instr.xor 0#8 0#8 (List.replicate 256 0#8)).wellFormed = false := by decide +kernel
theorem test_ill_formed_reserved : (Instr.reserved 0x05#8).wellFormed = false := by decide
theorem test_ill_formed_response_status : (Instr.response 0b11#2 0x9#4 0#5).wellFormed = false := by decide
theorem test_ill_formed_response_category : (Instr.response 0b01#2 0x4#4 0#5).wellFormed = false := by decide
theorem test_ill_formed_response_value : (Instr.response 0b10#2 0x4#4 1#5).wellFormed = false := by decide
theorem test_ill_formed_column_high : (Instr.panelColumnHigh 4#4).wellFormed = false := by decide
theorem test_ill_formed_data : (Instr.panelData (List.replicate 17 0#8)).wellFormed = false := by decide

/-! ## The encoder, the row decode, the responses -/

/-- Vectors T1, T2 and T3. -/
theorem test_physcol_rev8_dbl :
    [0, 1, 5, 15, 16, 31].map physCol = [62, 60, 52, 32, 30, 0] ∧
    nums ((bytes [0x01, 0x02, 0xAA, 0xF0, 0x12, 0x96, 0xC9, 0x7E]).map rev8) =
      [0x80, 0x40, 0x55, 0x0F, 0x48, 0x69, 0x93, 0x7E] ∧
    nums (nibbles.map dbl) =
      [0x00, 0x03, 0x0C, 0x0F, 0x30, 0x33, 0x3C, 0x3F, 0xC0, 0xC3, 0xCC, 0xCF, 0xF0, 0xF3, 0xFC, 0xFF] := by decide

/-- Vector T4. -/
theorem test_expand :
    nums ((bytes [0x01, 0x80, 0xF0, 0x12, 0xC9, 0xA5]).flatMap expand) =
      [0x00, 0xC0, 0x03, 0x00, 0xFF, 0x00, 0xC0, 0x30, 0x0F, 0xC3, 0x33, 0xCC] := by decide

/-- Vector T5: the row `F0 0F A5 3C 01 80 12 FF`, here row 1. -/
theorem test_encode_row :
    nums (encodeRow [(8, 0xF0#8), (9, 0x0F#8), (10, 0xA5#8), (11, 0x3C#8), (12, 0x01#8), (13, 0x80#8), (14, 0x12#8),
      (15, 0xFF#8)] 1) =
      [0xFF, 0x00, 0x00, 0xFF, 0x33, 0xCC, 0xF0, 0x0F, 0x00, 0xC0, 0x03, 0x00, 0xC0, 0x30, 0xFF, 0xFF] := by decide

/-- Vector T13. -/
theorem test_decode_one_hot :
    nibbles.map decodeOneHot = [none, some 0, some 1, none, some 2, none, none, none, some 3, none, none, none, none,
      none, none, none] := by decide

/-- Vector T22, the eight errors. -/
theorem test_error_bytes :
    nums ([Kind.pinWrite, .pinRead, .delay, .busWrite, .chipSelect, .modeSelect, .resetLine, .illegalOp].map
      (fun k => responseByte0 (categoryOf (statusOf k)) (statusOf k))) =
      [0x41, 0x42, 0x43, 0x84, 0x85, 0x86, 0x87, 0xC8] := by decide

/-- A write of the value an unlisted byte reads as removes the entry (MEMORY's canonical form). -/
theorem test_memory_write :
    Memory.write [(3, 0x55#8), (9, 1#8)] 3 0x00#8 = [(9, 1#8)] ∧
    Memory.write [(3, 0x55#8)] 1 0x07#8 = [(1, 0x07#8), (3, 0x55#8)] ∧ Memory.read [(3, 0x55#8)] 4 = 0x00#8 := by decide

/-! ## The operations -/

/-- Vector T8: INIT from a framebuffer that is not zero. -/
theorem test_init_T8 :
    (got (step { start [0x00#8] (oks 803) with fb := [(7, 0x55#8)] })).map (fun s => (s.log.length, s.out, s.fb)) =
      some (803, ⟨.high, .low, .high, Quad.all .high⟩, []) := by decide +kernel

/-- Vector T9 d: INIT whose display-on command's bus write (event 802) fails. -/
theorem test_init_T9d :
    (got (step { start [0x00#8] (oks 801 ++ [.fails, ok 0]) with fb := [(7, 0x55#8)] })).map
      (fun s => (s.log.length, s.fb, s.responses)) = some (803, [], [(0x84#8, 0x00#8)]) := by decide +kernel

/-- Vector T12 a: CLEAR from `FB[3][3] = 55`. -/
theorem test_clear_T12a :
    (got (step { start [0x01#8] (oks 768) with fb := [(27, 0x55#8)] })).map (fun s => (s.log.length, s.fb, s.responses)) =
      some (768, [], [(0x00#8, 0x00#8)]) := by decide +kernel

/-- Vector T12 b: the bus write of column 2's data transaction (event 35) fails. -/
theorem test_clear_T12b :
    (got (step { start [0x01#8] (oks 34 ++ [.fails, ok 0]) with fb := [(27, 0x55#8)] })).map
      (fun s => (s.log.length, s.fb, s.responses)) = some (36, [(27, 0x55#8)], [(0x84#8, 0x00#8)]) := by decide +kernel

/-- Vector T10 g: two rows, straddling, across the bottom edge. -/
theorem test_xor_T10g :
    (got (step (start (bytes [0x02, 0x03, 0x1F, 0x02, 0xFF, 0x81]) (oks 48)))).map
      (fun s => (s.log.length, s.fb, s.responses)) =
      some (48, [(0, 0x10#8), (1, 0x20#8), (248, 0x1F#8), (249, 0xE0#8)], [(0x00#8, 0x01#8)]) := by decide +kernel

/-- Vector T11: the first data transaction of the second row fails (event 35). -/
theorem test_xor_T11 :
    (got (step (start (bytes [0x02, 0x00, 0x00, 0x03, 0x0F, 0xF0, 0xAA]) (oks 34 ++ [.fails, ok 0])))).map
      (fun s => (s.log.length, s.fb, s.responses)) =
      some (36, [(0, 0x0F#8), (8, 0xF0#8)], [(0x84#8, 0x00#8)]) := by decide +kernel

/-- Vector T14, second matrix. -/
theorem test_is_any_T14 :
    (got (step (start [0x03#8] (rows 0 1 0 0)))).map (fun s => (s.trace, s.responses)) =
      some ([.read 0 .low, .read 1 .high, .read 2 .low, .read 3 .low], [(0x00#8, 0x01#8)]) := by decide

/-- Vector T14, the read of row 1 fails. -/
theorem test_is_any_T14_fails :
    (got (step (start [0x03#8] [ok 0, .fails]))).map (fun s => (s.trace, s.responses)) =
      some ([.read 0 .low, .readFailed 1], [(0x42#8, 0x00#8)]) := by decide

/-- Scenario S7: row 1, column 2 of the default keymap, event by event. -/
theorem test_read_key_S7 :
    (got (step (start [0x04#8] (rows 0 1 0 0 ++ oks 4 ++ (oks 6 ++ oks 1) ++ (oks 6 ++ oks 1) ++
      (oks 2 ++ rows 0 1 0 0) ++ oks 4)))).map (fun s => (s.log.length, s.trace.drop 22, s.responses)) =
      some (32, [.wrote (.col 2) .high, .waited 500, .read 0 .low, .read 1 .high, .read 2 .low, .read 3 .low,
        .wrote (.col 0) .high, .wrote (.col 1) .high, .wrote (.col 2) .high, .wrote (.col 3) .high],
        [(0x00#8, 0x16#8)]) := by decide +kernel

/-- Vector T19: the key at row 0, column 0 is resolved and the second restoring write (event 16) fails. -/
theorem test_read_key_T19 :
    (got (step (start [0x04#8] (rows 1 0 0 0 ++ oks 4 ++ (oks 2 ++ rows 1 0 0 0) ++ [ok 0, .fails, ok 0, ok 0])))).map
      (fun s => (s.log.length, s.trace.drop 14, s.responses)) =
      some (18, [.wrote (.col 0) .high, .writeFailed (.col 1) .high, .wrote (.col 2) .high, .wrote (.col 3) .high],
        [(0x41#8, 0x00#8)]) := by decide +kernel

/-- Vector T21. -/
theorem test_set_keymap_T21 :
    (got (step (start (bytes [0x05, 0x77, 0x77, 0x77, 0x77, 0x77, 0x77, 0x77, 0x78]) []))).map
      (fun s => (s.log, s.keymap, s.responses)) =
      some ([], ⟨Quad.all 7#4, Quad.all 7#4, Quad.all 7#4, ⟨7#4, 7#4, 7#4, 8#4⟩⟩, [(0x00#8, 0x00#8)]) := by decide

/-- Vector T23, the stream `06 02 00 00 01 FF`. -/
theorem test_reserved_T23 :
    (got (step (start (bytes [0x06, 0x02, 0x00, 0x00, 0x01, 0xFF]) []))).map (fun s => (s.log, s.cmdIn, s.responses)) =
      some ([], bytes [0x02, 0x00, 0x00, 0x01, 0xFF], [(0xC8#8, 0x00#8)]) := by decide

/-- The response of a busy sequencer that has come to its end (R88). -/
theorem test_response :
    (got (step { start [] [] with seq := .busy .readKey (.respond 0b00#2 0x0#4 0x16#5) })).map
      (fun s => (s.responses, s.result, s.seq)) = some ([(0x00#8, 0x16#8)], ⟨0x0#4, 0x16#5, true⟩, .idle) := by decide

/-! The panel transactions, from the sequencer's position before each (vectors T6, T7, T8). -/

theorem test_panel_start_line : wired (step (initAt (.config .startLine))) =
    some (command [Config.cmdStartLine, 0x00#8], .busy .init (frameStart (.config .contrast))) := rfl
theorem test_panel_contrast : wired (step (initAt (.config .contrast))) =
    some (command [Config.cmdContrast, 0x80#8], .busy .init (frameStart (.config .verticalMode))) := rfl
theorem test_panel_vertical : wired (step (initAt (.config .verticalMode))) =
    some (command [Config.cmdVerticalMode], .busy .init (frameStart (.config .osc))) := rfl
theorem test_panel_osc : wired (step (initAt (.config .osc))) =
    some (command [Config.cmdOsc, 0x41#8], .busy .init (frameStart (.config .precharge))) := rfl
theorem test_panel_precharge : wired (step (initAt (.config .precharge))) =
    some (command [Config.cmdPrecharge, 0x22#8], .busy .init (frameStart (.config .vcom))) := rfl
theorem test_panel_vcom : wired (step (initAt (.config .vcom))) =
    some (command [Config.cmdVcom, 0x35#8], .busy .init (frameStart (.config .offset))) := rfl
theorem test_panel_offset : wired (step (initAt (.config .offset))) =
    some (command [Config.cmdOffset, 0x60#8], .busy .init (frameStart (.column 0 .lo))) := rfl
theorem test_panel_display_on : wired (step (initAt .displayOn)) =
    some (command [Config.cmdDisplayOn], .busy .init (.respond 0b00#2 0x0#4 0#5)) := rfl
/-- Column 37 is 0x25: low nibble 5, high nibble 2 (T7). -/
theorem test_panel_column_low : wired (step (initAt (.column 37 .lo))) =
    some (command [Config.colLoCmd 5#4], .busy .init (frameStart (.column 37 .hi))) := rfl
theorem test_panel_column_high : wired (step (initAt (.column 37 .hi))) =
    some (command [Config.colHiCmd 2#4], .busy .init (frameStart (.column 37 .data))) := rfl
theorem test_panel_data : wired (step (initAt (.column 63 .data))) =
    some ([.wrote .cs .low, .wrote .dc .high, .sent (List.replicate 16 0x00#8), .wrote .cs .high],
      .busy .init .zeroFb) := by decide

/-- Vector T6, rows 3 and 7: a failed mode-select write, and a failed bus write whose clean-up write fails too. -/
theorem test_panel_T6 :
    wired (exec .panelSetContrast { initAt (.config .contrast) with env := [ok 0, .fails, ok 0] }) =
      some ([.wrote .cs .low, .writeFailed .dc .low, .wrote .cs .high], .busy .init (.respond 0b10#2 0x6#4 0#5)) ∧
    wired (exec .panelSetContrast { initAt (.config .contrast) with env := [ok 0, ok 0, .fails, .fails] }) =
      some ([.wrote .cs .low, .wrote .dc .low, .sendFailed [Config.cmdContrast, 0x80#8], .writeFailed .cs .high],
        .busy .init (.respond 0b10#2 0x4#4 0#5)) := ⟨rfl, rfl⟩

/-! ## Witnesses: for each statement with hypotheses, a state and operands that meet them all -/

/-- A state whose next `n` exchanges succeed, with every row read low. -/
def calm (n : Nat) : State := start [] (oks n)

/-- A state whose exchange `k` is the first to fail. -/
def failing (k : Nat) : State := start [] (oks k ++ [.fails])

/-- READ_KEY's answers when row `r` shows under column `c` alone (R121): the pre-check, step 1, the columns before `c`. -/
def keyAnswers (c : Nat) (sample : List Answer) : List Answer := sample ++ oks (4 + 7 * c + 2) ++ sample ++ oks 4

theorem wit_DescriptorsDecodeAsEncoded :
    (Instr.xor 60#8 5#8 [0xFF#8]).interface = .hostDescriptor ∧ (Instr.xor 60#8 5#8 [0xFF#8]).wellFormed = true := by
  decide
theorem wit_DecodedDescriptorsAreTheirEncodings :
    decode .hostDescriptor [0x06#8, 0x02#8] = .done (.reserved 0x06#8) [0x02#8] := by decide
theorem wit_ResponsesDecodeAsEncoded :
    decode .hostResponse [0xC8#8, 0x00#8] = .done (.response 0b11#2 0x8#4 0#5) [] := by decide

/-- `Config.WireDistinct` speaks of opaque constants, so no value of them can be shown to meet it; the values that
spec/93_implementation_defined.md G1 offers for simulation meet the property it names. -/
theorem wit_WireDistinct : CommandsDistinct (fun n => 0#4 ++ n) (fun n => 1#4 ++ n) 0x21#8 0xAF#8 := by
  unfold CommandsDistinct; decide
theorem wit_PanelTransactionsDecodeAsEncoded :
    (Instr.panelColumnHigh 3#4).interface = .panelWire .low ∧ (Instr.panelColumnHigh 3#4).wellFormed = true ∧
    (Instr.panelData zeroPayload).interface = .panelWire .high ∧ (Instr.panelData zeroPayload).wellFormed = true := by
  decide
theorem wit_StepRunsTheDescriptor :
    (start [0x04#8, 0x01#8] []).seq = .idle ∧
    decode .hostDescriptor (start [0x04#8, 0x01#8] []).cmdIn = .done .readKey [0x01#8] := by decide

/-- One sequencer position for each clause: before a panel transaction, before an exchange of its own, and one that CLEAR
does not have. -/
theorem wit_StepRunsThePendingInstruction :
    (phaseLegal (initAt .displayOn).operands .init (frameStart .displayOn) = true ∧
      (initAt .displayOn).pending = some .panelDisplayOn) ∧
    (phaseLegal (initAt .displayOn).operands .init (.resetPulse .first) = true ∧
      ({ initAt .displayOn with seq := .busy .init (.resetPulse .first) } : State).pending = none) ∧
    phaseLegal (initAt .displayOn).operands .clear (.preSample 0 0#4) = false := by decide
theorem wit_PartOfADescriptorWaits :
    (start [0x02#8, 0x3C#8, 0x05#8, 0x01#8] []).seq = .idle ∧ (Instr.xor 60#8 5#8 [0xFF#8]).interface = .hostDescriptor ∧
    (Instr.xor 60#8 5#8 [0xFF#8]).wellFormed = true ∧ 4 < (encode (.xor 60#8 5#8 [0xFF#8])).length ∧
    (start [0x02#8, 0x3C#8, 0x05#8, 0x01#8] []).cmdIn = (encode (.xor 60#8 5#8 [0xFF#8])).take 4 := by decide
theorem wit_ReservedOpcodeIsAnswered :
    (start [0x06#8, 0xFF#8] []).seq = .idle ∧ 6 ≤ (0x06#8).toNat ∧ (start [0x06#8, 0xFF#8] []).cmdIn = [0x06#8, 0xFF#8] ∧
    6 ≤ (0xFF#8).toNat := by decide
theorem wit_TicksAgreeWithExec : Instr.interface .init = .hostDescriptor := rfl
theorem wit_StepsAgreeWithExec :
    (Instr.reserved 0xFF#8).interface = .hostDescriptor ∧ (Instr.reserved 0xFF#8).wellFormed = true := by decide
theorem wit_StepKeepsInv :
    ({ initAt .displayOn with fb := [(255, 1#8)] } : State).Inv ∧
    (got (step { initAt .displayOn with fb := [(255, 1#8)] })).isSome = true := by decide
theorem wit_StepNeverStops : ({ initAt .displayOn with fb := [(255, 1#8)] } : State).Inv := by decide

/-- A state inside a scan: no failure so far, column 1 energized. -/
def midScan : State :=
  { calm 3 with
    operands := { State.reset.operands with op := 0x04#8 }
    out := ⟨.high, .low, .low, ⟨.low, .high, .low, .low⟩⟩, seq := .busy .readKey (.settle 1) }
theorem wit_StepKeepsLines : midScan.LinesInv ∧ ∃ t, step midScan = .next t :=
  ⟨⟨fun _ => rfl, fun _ d => by fin_cases d <;> rfl⟩, _, rfl⟩

/-- For the clauses: an aligned column at the right edge, a straddle in the middle and one that wraps, and both end rows. -/
theorem wit_SpriteByteIsXoredIntoItsBytes :
    Memory.wf [(0, 0x80#8), (255, 0x01#8)] = true ∧ (0 < 32 ∧ 31 < 32) ∧
    ((56#8).toNat % 8 = 0 ∧ (56#8).toNat % 64 / 8 = 7) ∧
    ((9#8).toNat % 8 = 1 ∧ ((9#8).toNat % 64 / 8 + 1) % 8 = 2) ∧
    ((255#8).toNat % 8 = 7 ∧ ((255#8).toNat % 64 / 8 + 1) % 8 = 0) := by decide
theorem wit_SpriteTogglesItsPixels : Memory.wf [(255, 0x01#8)] = true ∧ 63 < 64 ∧ 31 < 32 := by decide
theorem wit_XorCompletes : (calm 24).AllSucceed (24 * [0xFF#8].length) ∧ State.reset.AllSucceed (24 * ([] : List Byte).length) := by
  decide
/-- The one byte of row 31 at column 63 and its wrapped neighbour are the only ones a one-byte sprite there may change. -/
theorem wit_XorFrame :
    Memory.wf (calm 24).fb = true ∧ (∃ t, exec (.xor 63#8 31#8 [0xC0#8]) (calm 24) = .next t) ∧
    (∀ i < [0xC0#8].length, ¬((31 : Nat) = rowOf 31#8 i ∧
      ((1 : Nat) = byteIndex 63#8 ∨ colOffset 63#8 ≠ 0 ∧ (1 : Nat) = nextByteIndex 63#8))) :=
  ⟨by decide, ⟨_, rfl⟩, by decide⟩
theorem wit_XorStoppedByFailure : (failing 34).FirstFailureAt 34 ∧ 34 < 24 * [0x0F#8, 0xF0#8, 0xAA#8].length := by
  decide +kernel
theorem wit_XorIsItsOwnInverse : Memory.wf (calm 48).fb = true ∧ (calm 48).AllSucceed (48 * [0xA5#8].length) := by
  decide +kernel
theorem wit_XorsCommute :
    Memory.wf (calm 48).fb = true ∧ (calm 48).AllSucceed (24 * [0xA5#8].length + 24 * [0xFF#8].length) := by
  decide +kernel
theorem wit_ClearCompletes : (calm 768).AllSucceed 768 := by decide +kernel
theorem wit_InitCompletes : (calm 803).AllSucceed 803 := by decide +kernel
/-- CLEAR's first and last exchange; INIT's last before, first inside and last of its last step. -/
theorem wit_FailedClearOrInitFramebuffer :
    (failing 0).FirstFailureAt 0 ∧ (failing 767).FirstFailureAt 767 ∧ (failing 798).FirstFailureAt 798 ∧
    (failing 799).FirstFailureAt 799 ∧ (failing 802).FirstFailureAt 802 := by decide +kernel
theorem wit_DisplayAbortIsPrecise :
    (failing 10).FirstFailureAt 10 ∧ (displayTrace (failing 10) .clear)[10]? = some (.sent zeroPayload) ∧
    (failing 0).FirstFailureAt 0 ∧ (displayTrace (failing 0) .init)[0]? = some (.wrote .rst .high) ∧
    (displayTrace (failing 1) (.xor 0#8 0#8 [0xFF#8]))[1]? = some (.wrote .dc .low) :=
  ⟨by decide +kernel, rfl, by decide, rfl, rfl⟩
theorem wit_ClearAndInitFrame :
    (∃ t, exec .clear (failing 0) = .next t) ∧ ∃ t, exec .init (failing 0) = .next t := ⟨⟨_, rfl⟩, _, rfl⟩
/-- The two end columns, 0 of row 31 and 63 of row 0. -/
theorem wit_RowsOwnTheirColumnPairs : (0 < 64 ∧ 0 = physCol 31) ∧ (63 < 64 ∧ 63 = physCol 0 + 1) := by decide
/-- The end positions; three memories that are the exclusive-or of each other; a zero row; equal payloads of two rows. -/
theorem wit_RowEncodingProperties :
    (0 < 128 ∧ 127 < 128) ∧
    (∀ b < 8, fbRead [(0, 3#8)] 0 b = fbRead [(0, 1#8)] 0 b ^^^ fbRead [(0, 2#8)] 0 b) ∧
    (∀ b < 8, fbRead [(0, 3#8)] 1 b = 0x00#8) ∧ encodeRow [(0, 3#8)] 0 = encodeRow [(8, 3#8)] 1 := by decide
theorem wit_RowIsRenderedAtBothColumns :
    (calm 24).AllSucceed 24 ∧ (failing 0).FirstFailureAt 0 ∧
    (rowEvents 0 (encodeRow (failing 0).fb 0))[0]? = some (.wrote .cs .low) ∧ (failing 23).FirstFailureAt 23 ∧
    (rowEvents 31 (encodeRow (failing 23).fb 31))[23]? = some (.wrote .cs .high) :=
  ⟨by decide, by decide, rfl, by decide, rfl⟩
theorem wit_TransactionPaths :
    (failing 0).FirstFailureAt 0 ∧ (failing 1).FirstFailureAt 1 ∧ (failing 2).FirstFailureAt 2 ∧
    (failing 3).FirstFailureAt 3 ∧ (calm 4).AllSucceed 4 := by decide
theorem wit_SimpleCommandsComplete :
    (calm 4).AllSucceed 4 ∧ (initAt .displayOn).AllSucceed 4 ∧ (initAt .displayOn).seq = .busy .init (frameStart .displayOn) := by
  decide
theorem wit_ParameterizedCommandsComplete :
    (calm 4).AllSucceed 4 ∧ (initAt (.config .osc)).AllSucceed 4 ∧
    (initAt (.config .osc)).seq = .busy .init (frameStart (.config .osc)) := by decide
theorem wit_DataTransactionCompletes : zeroPayload.length = 16 ∧ (calm 4).AllSucceed 4 := by decide
/-- A transaction the sequencer waits for, whose last exchange fails. -/
theorem wit_PanelTransactionFrame :
    Instr.interface .panelDisplayOn = .panelWire .low ∧
    (∃ t, exec .panelDisplayOn { initAt .displayOn with env := [ok 0, ok 0, ok 0, .fails] } = .next t) ∧
    ({ initAt .displayOn with env := [ok 0, ok 0, ok 0, .fails] } : State).FirstFailureAt 3 :=
  ⟨rfl, ⟨_, rfl⟩, by decide⟩
theorem wit_BusWritesHaveThreeLengths :
    ∃ t events, exec .clear (failing 11) = .next t ∧ NewEvents (failing 11) t events ∧ .sent zeroPayload ∈ events :=
  ⟨_, [.wrote .cs .low, .wrote .dc .low, .sent [Config.colLoCmd 0#4], .wrote .cs .high, .wrote .cs .low, .wrote .dc .low,
    .sent [Config.colHiCmd 0#4], .wrote .cs .high, .wrote .cs .low, .wrote .dc .high, .sent zeroPayload,
    .writeFailed .cs .high], rfl, rfl, List.mem_of_getElem? (i := 10) rfl⟩

/-- A panel that shows the empty framebuffer and stands ready. -/
def blankPanel : Panel := ⟨[], 0#4, 0#4, 0, .high, .low, true, 0⟩
/-- A premise for each clause, beside `wit_WireDistinct`. -/
theorem wit_PanelShowsTheFramebuffer :
    (calm 803).AllSucceed 803 ∧ (∃ t, exec .init (calm 803) = .next t) ∧
    (calm 24).AllSucceed (24 * [0xFF#8].length) ∧ (∃ t, exec (.xor 0#8 0#8 [0xFF#8]) (calm 24) = .next t) ∧
    (calm 768).AllSucceed 768 ∧ (∃ t, exec .clear (calm 768) = .next t) ∧
    (∃ t, exec .readKey (failing 0) = .next t) ∧ blankPanel.ready ∧ blankPanel.shows State.reset.fb :=
  ⟨by decide +kernel, ⟨_, rfl⟩, by decide, ⟨_, rfl⟩, by decide +kernel, ⟨_, rfl⟩, ⟨_, rfl⟩, by decide,
    by decide +kernel⟩
theorem wit_IsAnyKeyCompletes : (calm 4).AllSucceed 4 ∧ (start [] (rows 0 0 0 1)).AllSucceed 4 := by decide
theorem wit_ReadKeyIdle : (calm 4).AllSucceed 4 ∧ (calm 4).sampleAt 0 = 0b0000#4 := by decide
/-- The first and the last column; under column 3 the last row. -/
theorem wit_ReadKeyResolves :
    ((start [] (keyAnswers 0 (rows 1 0 0 0))).AllSucceed (18 + 7 * 0) ∧
      (start [] (keyAnswers 0 (rows 1 0 0 0))).sampleAt 0 ≠ 0b0000#4 ∧
      decodeOneHot ((start [] (keyAnswers 0 (rows 1 0 0 0))).sampleAt (scanReadAt 0)) = some 0) ∧
    ((start [] (keyAnswers 3 (rows 0 0 0 1))).AllSucceed (18 + 7 * 3) ∧
      (start [] (keyAnswers 3 (rows 0 0 0 1))).sampleAt 0 ≠ 0b0000#4 ∧
      (∀ d : Line4, d < 3 → decodeOneHot ((start [] (keyAnswers 3 (rows 0 0 0 1))).sampleAt (scanReadAt d.val)) = none) ∧
      decodeOneHot ((start [] (keyAnswers 3 (rows 0 0 0 1))).sampleAt (scanReadAt 3)) = some 3) := by decide +kernel
/-- Vector T16. -/
theorem wit_ReadKeyResolvesNothing :
    (start [] (rows 0 0 1 0 ++ oks 36)).AllSucceed 40 ∧ (start [] (rows 0 0 1 0 ++ oks 36)).sampleAt 0 ≠ 0b0000#4 ∧
    (∀ d : Line4, decodeOneHot ((start [] (rows 0 0 1 0 ++ oks 36)).sampleAt (scanReadAt d.val)) = none) := by
  decide +kernel
/-- A failed settle delay, then a restoration that succeeds (the fourth row of T17). -/
theorem wit_ReadKeyRestoresTheColumns :
    State.reset.out.cols = Quad.all .high ∧
    ∃ t events, exec .readKey (start [] (rows 0 1 0 0 ++ oks 5 ++ [.fails] ++ oks 4)) = .next t ∧
      NewEvents (start [] (rows 0 1 0 0 ++ oks 5 ++ [.fails] ++ oks 4)) t events ∧
      ∀ e ∈ events.drop (events.length - 4), Event.failure e ≠ some .pinWrite :=
  ⟨rfl, _, [.read 0 .low, .read 1 .high, .read 2 .low, .read 3 .low, .wrote (.col 0) .low, .wrote (.col 1) .low,
    .wrote (.col 2) .low, .wrote (.col 3) .low, .wrote (.col 0) .high, .waitFailed 500, .wrote (.col 0) .high,
    .wrote (.col 1) .high, .wrote (.col 2) .high, .wrote (.col 3) .high], rfl, by decide, by decide⟩
/-- The first exchange of the scan, and step 2d of the last column, its last. -/
theorem wit_ScanFailureRestores :
    ((start [] (rows 0 1 0 0 ++ [.fails])).FirstFailureAt 4 ∧ (start [] (rows 0 1 0 0 ++ [.fails])).sampleAt 0 ≠ 0b0000#4 ∧
      (∀ d : Line4, ¬ scanReadAt d.val + 4 ≤ 4) ∧
      (missTrace (start [] (rows 0 1 0 0 ++ [.fails])))[4]? = some (.wrote (.col 0) .low)) ∧
    ((start [] (rows 0 1 0 0 ++ oks 31 ++ [.fails])).FirstFailureAt 35 ∧
      (start [] (rows 0 1 0 0 ++ oks 31 ++ [.fails])).sampleAt 0 ≠ 0b0000#4 ∧
      (∀ d : Line4, decodeOneHot ((start [] (rows 0 1 0 0 ++ oks 31 ++ [.fails])).sampleAt (scanReadAt d.val)) = none) ∧
      (missTrace (start [] (rows 0 1 0 0 ++ oks 31 ++ [.fails])))[35]? = some (.wrote (.col 3) .low)) := by
  decide +kernel
theorem wit_PrecheckFailureTouchesNothing :
    (0 < 4 ∧ (failing 0).FirstFailureAt 0) ∧ (3 < 4 ∧ (failing 3).FirstFailureAt 3) := by decide
/-- The key at row 0, column 0 held: the events of vector T19 without its failure. -/
theorem wit_IdealMatrixResolves :
    State.reset.out.cols = Quad.all .high ∧ (start [] (keyAnswers 0 (rows 1 0 0 0) ++ oks 22)).AllSucceed 40 ∧
    ∃ t events, exec .readKey (start [] (keyAnswers 0 (rows 1 0 0 0) ++ oks 22)) = .next t ∧
      NewEvents (start [] (keyAnswers 0 (rows 1 0 0 0) ++ oks 22)) t events ∧
      matrixAgrees [(0, 0)] State.reset.out.cols events = true :=
  ⟨rfl, by decide +kernel, _, [.read 0 .high, .read 1 .low, .read 2 .low, .read 3 .low, .wrote (.col 0) .low,
    .wrote (.col 1) .low, .wrote (.col 2) .low, .wrote (.col 3) .low, .wrote (.col 0) .high, .waited 500, .read 0 .high,
    .read 1 .low, .read 2 .low, .read 3 .low, .wrote (.col 0) .high, .wrote (.col 1) .high, .wrote (.col 2) .high,
    .wrote (.col 3) .high], rfl, by decide, by decide⟩
theorem wit_KeypadFrame :
    (∃ t, exec .readKey (failing 9) = .next t) ∧ (∃ t, exec (.setKeymap defaultKeymap) State.reset = .next t) ∧
    ∃ t, exec (.reserved 0x9A#8) State.reset = .next t := ⟨⟨_, rfl⟩, ⟨_, rfl⟩, _, rfl⟩
theorem wit_ReservedCompletes : 6 ≤ (0x06#8).toNat ∧ 6 ≤ (0xFF#8).toNat := by decide
/-- A failing and a successful operation. -/
theorem wit_FirstFailureIsReported :
    (∃ t, exec .isAnyKeyPressed (failing 1) = .next t ∧ NewEvents (failing 1) t [.read 0 .low, .readFailed 1]) ∧
    firstFailure [.read 0 .low, .readFailed 1] = some .pinRead ∧
    (∃ t, exec (.setKeymap defaultKeymap) State.reset = .next t ∧ NewEvents State.reset t []) ∧ firstFailure [] = none :=
  ⟨⟨_, rfl, by decide⟩, by decide, ⟨_, rfl, by decide⟩, rfl⟩
theorem wit_ErrorsByOperation :
    Instr.interface .init = .hostDescriptor ∧ mayReport .init .resetLine = true ∧ mayReport .clear .resetLine = false := by
  decide
theorem wit_OperationsAreBounded : Instr.interface .readKey = .hostDescriptor := rfl

end Sys2Proof.Tests
end

section
/-! PROOF. The reset state's keymap (spec/10_state.md rule R31). -/

namespace Sys2Proof.Machine

/-- Reading all four places in order lists the fields in order: `q0` is place 0. -/
theorem map_get_lines4 {α β : Type} (q : Quad α) (f : α → β) :
    (lines4.map fun i => f (q.get i)) = [f q.q0, f q.q1, f q.q2, f q.q3] := rfl

/-- Settles O19: reading by row and then by column lists the rows top to bottom, each left to right, and at reset these
are the rows of the table of R31. -/
theorem defaultKeymapEntries : Obligations.DefaultKeymapEntries := by
  unfold Obligations.DefaultKeymapEntries Keymap.entry
  simp only [map_get_lines4]
  have hreset : State.reset.keymap = defaultKeymap := rfl
  rw [hreset]
  decide

end Sys2Proof.Machine
end

section
/-! PROOF. One sprite byte composited into the framebuffer (spec/20_memory.md rules R53 to R55). -/

namespace Sys2Proof.Machine

section
variable {m : Memory} {x : Byte} {row : Nat} (sb : Byte) (r : Nat) {b : Nat}

/-- At an aligned column the whole sprite byte goes into one byte of its row (R54). -/
theorem fbRead_compositeByte_of_aligned (hm : Memory.wf m = true) (hb : b < 8) (h0 : colOffset x = 0) :
    fbRead (compositeByte m x row sb) r b =
      if r = row ∧ b = byteIndex x then fbRead m r b ^^^ sb else fbRead m r b := by
  rw [compositeByte, if_pos h0]
  exact fbRead_fbXor sb hm (byteIndex_lt x) hb

/-- At any other column its two pieces go into two bytes of the row; these differ, so each piece meets the byte as it
was (R55). -/
theorem fbRead_compositeByte_of_straddling (hm : Memory.wf m = true) (hrow : row < 32) (hb : b < 8)
    (h0 : colOffset x ≠ 0) :
    fbRead (compositeByte m x row sb) r b =
      if r = row ∧ b = byteIndex x then fbRead m r b ^^^ firstPiece x sb
      else if r = row ∧ b = nextByteIndex x then fbRead m r b ^^^ secondPiece x sb
      else fbRead m r b := by
  have hfirst := fbRead_fbXor (r := row) (r' := r) (firstPiece x sb) hm (byteIndex_lt x) hb
  have hm' := Memory.wf_fbXor (firstPiece x sb) hm hrow (byteIndex_lt x)
  rw [compositeByte, if_neg h0, fbRead_fbXor _ hm' (nextByteIndex_lt x) hb, hfirst]
  by_cases hbyte : r = row ∧ b = byteIndex x
  · have hnext : ¬(r = row ∧ b = nextByteIndex x) := fun h => nextByteIndex_ne x (h.2.symm.trans hbyte.2)
    rw [if_neg hnext, if_pos hbyte, if_pos hbyte]
  · simp only [if_neg hbyte]

end

/-- Settles O20: the statement's chain of cases is the aligned and the straddling access, with the index formulas of
R53 written out. -/
theorem spriteByteIsXoredIntoItsBytes : Obligations.SpriteByteIsXoredIntoItsBytes := by
  unfold Obligations.SpriteByteIsXoredIntoItsBytes
  intro m x sb row hm hrow
  refine ⟨rfl, rfl, nextByteIndex_ne x, fun r _ b hb => ?_⟩
  by_cases h0 : x.toNat % 8 = 0
  · rw [if_pos h0]
    exact fbRead_compositeByte_of_aligned sb r hm hb h0
  · rw [if_neg h0]
    exact fbRead_compositeByte_of_straddling sb r hm hrow hb h0

end Sys2Proof.Machine
end

section
/-! PROOF. The strict single-hot decoding of the four row samples (spec/40_keypad_matrix_scanner.md rule R113). -/

namespace Sys2Proof.Machine

/-- The pattern with only bit `r` set is the power of two of `r`, at any width. -/
theorem eq_twoPow_iff_getLsbD {w : Nat} (v : BitVec w) (r : Fin w) :
    v = BitVec.twoPow w r.val ↔ ∀ q : Fin w, v.getLsbD q.val = decide (q = r) := by
  have hbit : ∀ q : Fin w, (BitVec.twoPow w r.val).getLsbD q.val = decide (q = r) := fun q => by
    simp [Fin.ext_iff, eq_comm]
  constructor
  · rintro rfl
    exact hbit
  · intro h
    exact BitVec.eq_of_getLsbD_eq fun i hi => (h ⟨i, hi⟩).trans (hbit ⟨i, hi⟩).symm

/-- `decodeOneHot` compares with the four powers of two in order and answers the exponent of the one it meets. -/
theorem decodeOneHot_eq_some_iff {rows : BitVec 4} {r : Line4} :
    decodeOneHot rows = some r ↔ rows = BitVec.twoPow 4 r.val := by
  constructor
  · intro h
    unfold decodeOneHot at h
    split_ifs at h with h0 h1 h2 h3 <;> cases h <;> assumption
  · rintro rfl
    fin_cases r <;> rfl

/-- Settles O44: the pattern that decodes to row `r` is the power of two of `r`, which has only bit `r` set. -/
theorem onlyOneHotPatternsDecode : Obligations.OnlyOneHotPatternsDecode := by
  unfold Obligations.OnlyOneHotPatternsDecode
  intro rows r
  rw [decodeOneHot_eq_some_iff]
  exact eq_twoPow_iff_getLsbD rows r

end Sys2Proof.Machine
end

section
/-! PROOF. The byte reversal of the column encoder (spec/42_column_encoder_bitdouble.md rule R171). -/

namespace Sys2Proof.Machine

/-- `rev8` concatenates the bits of `v` with bit 0 in front, so the bit met after `k` steps from the low end is bit
`7 - k` (R171). -/
theorem getLsbD_rev8 (v : Byte) {k : Nat} (hk : k < 8) : (rev8 v).getLsbD k = v.getLsbD (7 - k) := by
  unfold rev8
  iterate 7 rw [BitVec.getLsbD_append]
  interval_cases k <;> simp

/-- Bit positions mirrored twice are back in place. -/
@[simp] theorem rev8_rev8 (v : Byte) : rev8 (rev8 v) = v := by
  refine BitVec.eq_of_getLsbD_eq fun k hk => ?_
  have hmirror : 7 - k < 8 := by omega
  calc (rev8 (rev8 v)).getLsbD k
      = (rev8 v).getLsbD (7 - k) := getLsbD_rev8 (rev8 v) hk
    _ = v.getLsbD (7 - (7 - k)) := getLsbD_rev8 v hmirror
    _ = v.getLsbD k := by rw [Nat.sub_sub_self (Nat.le_of_lt_succ hk)]

/-- Settles O34: the bit formula of R171, and the involution that follows from using it twice. -/
theorem byteReversal : Obligations.ByteReversal := by
  unfold Obligations.ByteReversal
  exact fun v => ⟨fun _ hk => getLsbD_rev8 v hk, rev8_rev8 v⟩

end Sys2Proof.Machine
end

section
/-! PROOF. The encodings of the three interfaces (spec/30_encoding.md rules R81 to R93): decoding undoes encoding, and
on the two host interfaces nothing else decodes. -/

namespace Sys2Proof

/-- A claim about every host descriptor, one case for each of the seven rows of the command port (R81, R82, R87). -/
theorem Instr.host_cases {motive : (i : Instr) → i.interface = .hostDescriptor → Prop}
    (init : motive .init rfl) (clear : motive .clear rfl) (xor : ∀ x y sprite, motive (.xor x y sprite) rfl)
    (isAnyKeyPressed : motive .isAnyKeyPressed rfl) (readKey : motive .readKey rfl)
    (setKeymap : ∀ table, motive (.setKeymap table) rfl) (reserved : ∀ opcode, motive (.reserved opcode) rfl)
    (i : Instr) (hi : i.interface = .hostDescriptor) : motive i hi := by
  cases i with
  | init => exact init
  | clear => exact clear
  | xor x y sprite => exact xor x y sprite
  | isAnyKeyPressed => exact isAnyKeyPressed
  | readKey => exact readKey
  | setKeymap table => exact setKeymap table
  | reserved opcode => exact reserved opcode
  | _ => cases hi

/-! Keymap rows (R81). -/

@[simp] theorem keymapRow_append (q : Quad Nibble) : keymapRow (q.q0 ++ q.q1) (q.q2 ++ q.q3) = q := by
  simp only [keymapRow]
  rw [BitVec.extractLsb'_append_eq_left, BitVec.extractLsb'_append_eq_right, BitVec.extractLsb'_append_eq_left,
    BitVec.extractLsb'_append_eq_right]

@[simp] theorem encodeKeymapRow_keymapRow (a b : Byte) : encodeKeymapRow (keymapRow a b) = [a, b] := by
  simp only [encodeKeymapRow, keymapRow]
  rw [BitVec.extractLsb'_append_extractLsb' (w := 4) (len := 4) (x := a),
    BitVec.extractLsb'_append_extractLsb' (w := 4) (len := 4) (x := b)]

/-! Descriptors (R81, R82, R87). -/

theorem decodeXor_encoded (x y : Byte) (sprite rest : List Byte) (h : sprite.length < 256) :
    decodeXor (x :: y :: BitVec.ofNat 8 sprite.length :: (sprite ++ rest)) = .done (.xor x y sprite) rest := by
  have hn : (BitVec.ofNat 8 sprite.length).toNat = sprite.length := by
    rw [BitVec.toNat_ofNat]
    exact Nat.mod_eq_of_lt h
  simp [decodeXor, hn]

/-- The seven opcodes exclude each other, so every branch before a descriptor's own is passed. -/
theorem decodeDescriptor_reserved {opcode : Byte} (h : 6 ≤ opcode.toNat) (bytes : List Byte) :
    decodeDescriptor (opcode :: bytes) = .done (.reserved opcode) bytes := by
  have hne : ∀ k : Byte, k.toNat < 6 → opcode ≠ k := fun k hk e => by rw [e] at h; omega
  simp [decodeDescriptor, hne]

theorem decodeDescriptor_encode {i : Instr} (hi : i.interface = .hostDescriptor) (hwf : i.wellFormed = true)
    (rest : List Byte) : decodeDescriptor (encode i ++ rest) = .done i rest := by
  cases i, hi using Instr.host_cases with
  | init => rfl
  | clear => rfl
  | xor x y sprite =>
    exact decodeXor_encoded x y sprite rest (by simpa [Instr.wellFormed] using hwf)
  | isAnyKeyPressed => rfl
  | readKey => rfl
  | setKeymap table => simp [encode, encodeKeymapRow, decodeDescriptor, decodeKeymap]
  | reserved opcode => exact decodeDescriptor_reserved (by simpa [Instr.wellFormed] using hwf) rest

/-- Settles O1: the descriptors' opcodes differ, XOR's byte N is the sprite's length because that is below 256, and the
nibbles of a keymap byte come apart again. -/
theorem descriptorsDecodeAsEncoded : Obligations.DescriptorsDecodeAsEncoded := by
  unfold Obligations.DescriptorsDecodeAsEncoded
  exact fun i rest hi hwf => decodeDescriptor_encode hi hwf rest

/-- What a reading of bytes at the command port has to be. -/
def IsReading (bytes : List Byte) (i : Instr) (rest : List Byte) : Prop :=
  i.interface = .hostDescriptor ∧ i.wellFormed = true ∧ bytes = encode i ++ rest

theorem isReading_of_decodeXor {bytes rest : List Byte} {i : Instr} (h : decodeXor bytes = .done i rest) :
    IsReading (0x02#8 :: bytes) i rest := by
  unfold decodeXor at h
  split at h
  · next x y n tail =>
    split at h
    · next hn =>
      cases h
      have hlen : (tail.take n.toNat).length = n.toNat := List.length_take_of_le hn
      refine ⟨rfl, ?_, ?_⟩
      · simp only [Instr.wellFormed, hlen, decide_eq_true_eq]
        exact n.isLt
      · simp [encode, -List.length_take, hlen]
    · cases h
  · cases h

theorem isReading_of_decodeKeymap {bytes rest : List Byte} {i : Instr} (h : decodeKeymap bytes = .done i rest) :
    IsReading (0x05#8 :: bytes) i rest := by
  unfold decodeKeymap at h
  split at h
  · cases h
    exact ⟨rfl, rfl, by simp [encode]⟩
  · cases h

theorem isReading_of_decodeDescriptor {bytes rest : List Byte} {i : Instr}
    (h : decodeDescriptor bytes = .done i rest) : IsReading bytes i rest := by
  unfold decodeDescriptor at h
  split at h
  · cases h
  · next opcode tail =>
    split_ifs at h with h0 h1 h2 h3 h4 h5
    · cases h; exact ⟨rfl, rfl, by rw [h0]; rfl⟩
    · cases h; exact ⟨rfl, rfl, by rw [h1]; rfl⟩
    · rw [h2]; exact isReading_of_decodeXor h
    · cases h; exact ⟨rfl, rfl, by rw [h3]; rfl⟩
    · cases h; exact ⟨rfl, rfl, by rw [h4]; rfl⟩
    · rw [h5]; exact isReading_of_decodeKeymap h
    · cases h
      refine ⟨rfl, ?_, rfl⟩
      simp only [BitVec.toNat_eq, BitVec.toNat_ofNat] at h0 h1 h2 h3 h4 h5
      simp only [Instr.wellFormed, decide_eq_true_eq]
      omega

/-- Settles O2: each branch of the decoder answers the descriptor whose encoding it has just taken. -/
theorem decodedDescriptorsAreTheirEncodings : Obligations.DecodedDescriptorsAreTheirEncodings := by
  unfold Obligations.DecodedDescriptorsAreTheirEncodings
  exact fun _ _ _ h => isReading_of_decodeDescriptor h

theorem decodeXor_ne_rejected (bytes : List Byte) (e : DecodeError) : decodeXor bytes ≠ .rejected e := by
  unfold decodeXor
  split
  · split <;> simp
  · simp

theorem decodeKeymap_ne_rejected (bytes : List Byte) (e : DecodeError) : decodeKeymap bytes ≠ .rejected e := by
  unfold decodeKeymap
  split <;> simp

/-- Every first byte opens a descriptor, so the command port rejects nothing (R82, R87). -/
theorem decodeDescriptor_ne_rejected (bytes : List Byte) (e : DecodeError) :
    decodeDescriptor bytes ≠ .rejected e := by
  unfold decodeDescriptor
  split
  · simp
  · split_ifs <;> simp [decodeXor_ne_rejected, decodeKeymap_ne_rejected]

/-- A proper part of a descriptor is no descriptor: whatever it read as, the whole would read as that too, with bytes
left over. -/
theorem decodeDescriptor_take {i : Instr} (hi : i.interface = .hostDescriptor) (hwf : i.wellFormed = true) {k : Nat}
    (hk : k < (encode i).length) : decodeDescriptor ((encode i).take k) = .incomplete := by
  cases h : decodeDescriptor ((encode i).take k) with
  | incomplete => rfl
  | rejected e => exact absurd h (decodeDescriptor_ne_rejected _ e)
  | done j rest =>
    obtain ⟨hj, hjwf, hbytes⟩ := isReading_of_decodeDescriptor h
    have hwhole : encode i ++ [] = encode j ++ (rest ++ (encode i).drop k) := by
      rw [List.append_nil, ← List.append_assoc, ← hbytes, List.take_append_drop]
    have hsame : Decoded.done i [] = .done j (rest ++ (encode i).drop k) := by
      rw [← decodeDescriptor_encode hi hwf [], hwhole, decodeDescriptor_encode hj hjwf]
    have hnone : (encode i).drop k = [] := (List.append_eq_nil_iff.mp (Decoded.done.inj hsame).2.symm).2
    exact absurd (List.drop_eq_nil_iff.mp hnone) (Nat.not_le.mpr hk)

/-- Settles O5: each word is evaluated by the decoder. -/
theorem specDescriptorsDecode : Obligations.SpecDescriptorsDecode := by
  unfold Obligations.SpecDescriptorsDecode
  decide

/-! Responses (R88). -/

section
variable (cat : BitVec 2) (status : Nibble) (value : BitVec 5)

theorem decodeResponse_encode (rest : List Byte) :
    decodeResponse (encode (.response cat status value) ++ rest) = .done (.response cat status value) rest := by
  have hstatus : (Machine.responseByte0 cat status).extractLsb' 0 4 = status := BitVec.extractLsb'_append_eq_right
  have hzero : (Machine.responseByte0 cat status).extractLsb' 4 2 = 0#2 :=
    (BitVec.extractLsb'_append_eq_of_le (by decide)).trans BitVec.extractLsb'_append_eq_right
  have hcat : (Machine.responseByte0 cat status).extractLsb' 6 2 = cat :=
    (BitVec.extractLsb'_append_eq_of_le (by decide)).trans BitVec.extractLsb'_append_eq_left
  have hvalue : (Machine.responseByte1 value).extractLsb' 0 5 = value := BitVec.extractLsb'_append_eq_right
  have hzero' : (Machine.responseByte1 value).extractLsb' 5 3 = 0#3 := BitVec.extractLsb'_append_eq_left
  simp [encode, decodeResponse, hstatus, hzero, hcat, hvalue, hzero']

end

/-- A byte whose zero field is zero is byte 0 of the response with its other two fields. -/
theorem responseByte0_extract {b : Byte} (h : b.extractLsb' 4 2 = 0#2) :
    Machine.responseByte0 (b.extractLsb' 6 2) (b.extractLsb' 0 4) = b := by
  unfold Machine.responseByte0
  rw [← h, BitVec.extractLsb'_append_extractLsb'_eq_extractLsb' (start₁ := 4) (len₁ := 2) rfl]
  exact BitVec.extractLsb'_append_extractLsb' (w := 4) (len := 4)

theorem responseByte1_extract {b : Byte} (h : b.extractLsb' 5 3 = 0#3) :
    Machine.responseByte1 (b.extractLsb' 0 5) = b := by
  unfold Machine.responseByte1
  rw [← h]
  exact BitVec.extractLsb'_append_extractLsb' (w := 3) (len := 5)

/-- Settles O3: the fields of the two bytes are side by side, and the bits between them are checked to be zero. -/
theorem responsesDecodeAsEncoded : Obligations.ResponsesDecodeAsEncoded := by
  unfold Obligations.ResponsesDecodeAsEncoded
  refine ⟨decodeResponse_encode, fun bytes i rest h => ?_⟩
  change decodeResponse bytes = .done i rest at h
  unfold decodeResponse at h
  split at h
  · split at h
    · next hzero =>
      cases h
      refine ⟨rfl, ?_⟩
      simp [encode, responseByte0_extract hzero.1, responseByte1_extract hzero.2]
    · cases h
  · cases h

/-! The panel wire (R91 to R93, R144). -/

theorem mem_nibbles (n : Nibble) : n ∈ nibbles :=
  List.mem_map.mpr ⟨n.toNat, List.mem_range.mpr n.isLt, by rw [BitVec.ofNat_toNat, BitVec.setWidth_eq]⟩

/-- A column-command function that takes no nibble to `b`. -/
theorem nibbleFor_eq_none {cmd : Nibble → Byte} {b : Byte} (h : ∀ n, cmd n ≠ b) : nibbleFor cmd b = none := by
  simp [nibbleFor, List.find?_eq_none, h]

/-- A column-command function that tells nibbles apart. -/
theorem nibbleFor_self {cmd : Nibble → Byte} (hinj : ∀ m n, cmd m = cmd n → m = n) (n : Nibble) :
    nibbleFor cmd (cmd n) = some n := by
  unfold nibbleFor
  cases h : nibbles.find? (fun m => decide (cmd m = cmd n)) with
  | none => exact absurd (decide_eq_true rfl) (List.find?_eq_none.mp h n (mem_nibbles n))
  | some m => rw [hinj m n (by simpa using List.find?_some h)]

section
variable (hw : Config.WireDistinct)
include hw

theorem decodeSimple_columnLow (n : Nibble) : decodeSimple (Config.colLoCmd n) = .done (.panelColumnLow n) [] := by
  obtain ⟨hlo, -⟩ := hw
  simp [decodeSimple, nibbleFor_self hlo]

theorem decodeSimple_columnHigh (n : Nibble) : decodeSimple (Config.colHiCmd n) = .done (.panelColumnHigh n) [] := by
  obtain ⟨-, hhi, hlohi, -⟩ := hw
  simp [decodeSimple, nibbleFor_self hhi, nibbleFor_eq_none fun m => hlohi m n]

theorem decodeSimple_verticalMode : decodeSimple Config.cmdVerticalMode = .done .panelVerticalAddressing [] := by
  obtain ⟨-, -, -, hlo, hhi, -⟩ := hw
  simp [decodeSimple, nibbleFor_eq_none fun n => (hlo n).1, nibbleFor_eq_none fun n => (hhi n).1]

theorem decodeSimple_displayOn : decodeSimple Config.cmdDisplayOn = .done .panelDisplayOn [] := by
  obtain ⟨-, -, -, hlo, hhi, hne⟩ := hw
  simp [decodeSimple, nibbleFor_eq_none fun n => (hlo n).2, nibbleFor_eq_none fun n => (hhi n).2, Ne.symm hne]

theorem decodeFrame_encode {i : Instr} {mode : Level} (hi : i.interface = .panelWire mode)
    (hwf : i.wellFormed = true) : decodeFrame mode (encode i) = .done i [] := by
  cases i <;> cases hi
  case panelVerticalAddressing => exact decodeSimple_verticalMode hw
  case panelDisplayOn => exact decodeSimple_displayOn hw
  case panelColumnLow n => exact decodeSimple_columnLow hw n
  case panelColumnHigh n => exact decodeSimple_columnHigh hw n
  case panelData payload =>
    have hlen : payload.length = 16 := by simpa [Instr.wellFormed] using hwf
    simp [encode, decodeFrame, hlen]
  all_goals
    simp [encode, decodeFrame, decodeParam, initStartLine, initContrast, initOsc, initPrecharge, initVcom, initOffset]

end

/-- Settles O4: the premise tells the single-byte commands apart, and the parameter bytes of the six others all
differ. -/
theorem panelTransactionsDecodeAsEncoded : Obligations.PanelTransactionsDecodeAsEncoded := by
  unfold Obligations.PanelTransactionsDecodeAsEncoded
  exact fun hw i mode hi hwf => decodeFrame_encode hw hi hwf

end Sys2Proof
end

section
/-! PROOF. One step of the machine by where its sequencer stands (spec/10_state.md rule R33, spec/30_encoding.md rule
R89), the reset state (R30), and the operations that make no exchange (R87, R88, R122). -/

namespace Sys2Proof.Machine

/-! Steps. -/

theorem step_of_done {s : State} {i : Instr} {rest : List Byte} (hs : s.seq = .idle)
    (hd : decode .hostDescriptor s.cmdIn = .done i rest) : step s = exec i { s with cmdIn := rest } := by
  unfold step
  rw [hs]
  simp only
  rw [hd]

theorem step_of_incomplete {s : State} (hs : s.seq = .idle) (hd : decode .hostDescriptor s.cmdIn = .incomplete) :
    step s = .next s := by
  unfold step
  rw [hs]
  simp only
  rw [hd]

section
variable {s : State} {op : Op} {phase : Phase} (hs : s.seq = .busy op phase)
include hs

theorem step_of_pending (hl : phaseLegal s.operands op phase = true) {i : Instr} (hp : s.pending = some i) :
    step s = exec i s := by
  unfold step
  rw [hs]
  simp only [if_pos hl, hp]

theorem step_of_not_pending (hl : phaseLegal s.operands op phase = true) (hp : s.pending = none) :
    step s = .next (tick s) := by
  unfold step tick
  rw [hs]
  simp only [if_pos hl, hp]

theorem step_of_illegal (hl : phaseLegal s.operands op phase = false) : step s = .fault .noSuchPosition := by
  unfold step
  rw [hs]
  simp [hl]

end

/-- Settles O7: the idle branch of the step. -/
theorem stepRunsTheDescriptor : Obligations.StepRunsTheDescriptor := by
  unfold Obligations.StepRunsTheDescriptor
  exact fun s i rest hs hd => step_of_done hs hd

/-- Settles O8: the three branches of a busy step. -/
theorem stepRunsThePendingInstruction : Obligations.StepRunsThePendingInstruction := by
  unfold Obligations.StepRunsThePendingInstruction
  exact fun s op phase hs =>
    ⟨fun hl i hp => step_of_pending hs hl hp, fun hl hp => step_of_not_pending hs hl hp, step_of_illegal hs⟩

/-- Settles O9: a proper part of a descriptor decodes to nothing, and then the step answers the same state. -/
theorem partOfADescriptorWaits : Obligations.PartOfADescriptorWaits := by
  unfold Obligations.PartOfADescriptorWaits
  intro s i k hs hi hwf hk hcmd
  refine step_of_incomplete hs ?_
  rw [hcmd]
  exact decodeDescriptor_take hi hwf hk

/-! Reset. -/

/-- Settles O14: nothing is listed in the framebuffer, and SEQ is idle. -/
theorem resetHasInv : Obligations.ResetHasInv := by
  unfold Obligations.ResetHasInv
  exact ⟨rfl, rfl⟩

/-- Settles O17: chip-select and the columns are high, as an idle block's are. -/
theorem resetHasLines : Obligations.ResetHasLines := by
  unfold Obligations.ResetHasLines
  exact ⟨fun _ => rfl, fun _ => Quad.get_all Level.high⟩

/-- Settles O18: an unlisted framebuffer byte reads 0x00, and the other fields are read off. -/
theorem resetState : Obligations.ResetState := by
  unfold Obligations.ResetState
  exact ⟨fun _ _ _ _ => rfl, rfl, rfl, Quad.get_all Level.high, rfl, rfl, rfl⟩

/-! Responses. -/

/-- An operation that ends in state `u` after exchanges that left `events` has responded (R26, R88). -/
theorem Responded.of_writeResponse {s u : State} {events : List Event} (hlog : u.log = events.reverse ++ s.log)
    (henv : u.env = s.env.drop events.length) (hcmd : u.cmdIn = s.cmdIn) (hresp : u.responses = s.responses)
    (status : Nibble) (value : BitVec 5) :
    Responded s (writeResponse (categoryOf status) status value u) events status value :=
  ⟨hlog, henv, hcmd, rfl, by rw [writeResponse_responses, hresp], rfl⟩

/-- Settles O6: the category of each of the nine codes. -/
theorem statusCategories : Obligations.StatusCategories := by
  unfold Obligations.StatusCategories
  refine ⟨rfl, fun k => ?_⟩
  cases k <;> rfl

theorem reserved_responded (s : State) (opcode : Byte) :
    ∃ t, exec (.reserved opcode) s = .next t ∧ Responded s t [] 0x8#4 0#5 ∧ t.fb = s.fb ∧ t.keymap = s.keymap ∧
      t.out = s.out :=
  ⟨_, rfl, Responded.of_writeResponse rfl rfl rfl rfl (statusOf .illegalOp) valueNone, rfl, rfl, rfl⟩

/-- Settles O55: a reserved opcode is nothing but its response. -/
theorem reservedCompletes : Obligations.ReservedCompletes := by
  unfold Obligations.ReservedCompletes
  exact fun s opcode _ => reserved_responded s opcode

/-- Settles O10: the byte is decoded alone, and a reserved opcode is nothing but its response, C8 00. -/
theorem reservedOpcodeIsAnswered : Obligations.ReservedOpcodeIsAnswered := by
  unfold Obligations.ReservedOpcodeIsAnswered
  intro s opcode rest hs hop hcmd
  have hstep : step s = exec (.reserved opcode) { s with cmdIn := rest } := by
    refine step_of_done hs ?_
    rw [hcmd]
    exact decodeDescriptor_reserved hop rest
  obtain ⟨t, ht, hresp, hfb, hkeymap, hout⟩ := reserved_responded { s with cmdIn := rest } opcode
  refine ⟨t, hstep.trans ht, hresp, ?_, hfb, hkeymap, hout⟩
  obtain ⟨-, -, -, -, hresponses, -⟩ := hresp
  rw [hresponses]
  rfl

/-- Settles O53: the table is written and the response follows. -/
theorem setKeymapCompletes : Obligations.SetKeymapCompletes := by
  unfold Obligations.SetKeymapCompletes
  exact fun s table =>
    ⟨_, rfl, Responded.of_writeResponse rfl rfl rfl rfl statusOk valueNone, fun _ _ => rfl, rfl, rfl⟩

/-- Fields side by side add up with the upper one's weight. -/
theorem toNat_append_eq_add {v w : Nat} (x : BitVec v) (y : BitVec w) :
    (x ++ y).toNat = 2 ^ w * x.toNat + y.toNat := by
  rw [BitVec.toNat_append, ← Nat.shiftLeft_add_eq_or_of_lt y.isLt, Nat.shiftLeft_eq, Nat.mul_comm]

theorem toNat_responseByte0 (cat : BitVec 2) (status : Nibble) :
    (responseByte0 cat status).toNat = 64 * cat.toNat + status.toNat := by
  unfold responseByte0
  rw [toNat_append_eq_add, toNat_append_eq_add, BitVec.toNat_ofNat]
  omega

theorem toNat_responseByte1 (value : BitVec 5) : (responseByte1 value).toNat = value.toNat := by
  unfold responseByte1
  rw [toNat_append_eq_add, BitVec.toNat_ofNat]
  omega

/-- Settles O56: the response's fields are the register's, and the two bytes are their layout. -/
theorem responseCompletes : Obligations.ResponseCompletes := by
  unfold Obligations.ResponseCompletes
  exact fun s cat status value => ⟨_, _, _, rfl, rfl, rfl, toNat_responseByte0 cat status, toNat_responseByte1 value,
    rfl, rfl, rfl, rfl, rfl, rfl, rfl⟩

/-! Rows and columns (R56, R170). -/

/-- Settles O21: 256 is a multiple of 32. -/
theorem rowsWrapAt32 : Obligations.RowsWrapAt32 := by
  unfold Obligations.RowsWrapAt32
  intro y i
  refine ⟨rfl, ?_⟩
  have hsum : (y + BitVec.ofNat 8 i).toNat = (y.toNat + i) % 256 := by simp
  rw [hsum, Nat.mod_mod_of_dvd _ (by decide)]
  rfl

/-- The row that owns physical column `a`. -/
theorem eq_physCol_iff {a row : Nat} (ha : a < 64) (hrow : row < 32) :
    a = physCol row ∨ a = physCol row + 1 ↔ row = 31 - a / 2 := by
  unfold physCol
  omega

/-- Settles O33: the row that owns a column is `31 - a div 2`. -/
theorem rowsOwnTheirColumnPairs : Obligations.RowsOwnTheirColumnPairs := by
  unfold Obligations.RowsOwnTheirColumnPairs
  constructor
  · intro row
    unfold physCol
    omega
  · intro a ha
    have hrow : 31 - a / 2 < 32 := by omega
    exact ⟨31 - a / 2, hrow, (eq_physCol_iff ha hrow).mpr rfl, fun row' hrow' h => (eq_physCol_iff ha hrow').mp h⟩

end Sys2Proof.Machine
end

section
/-! PROOF. What every host operation can do, whatever the environment answers (spec/60_exceptions.md rules R213 to R216,
spec/43_framebuffer_compositor_xor.md rule R198): which exchanges it makes and how many, which lines it leaves alone, and
that it reports the first failure of its trace. -/

namespace Sys2Proof.Machine

/-! One exchange. -/

/-- The kind an exchange reports when it fails (R8, R211). -/
def Event.kind : Event → Kind
  | .wrote l _ => l.kind
  | .writeFailed l _ => l.kind
  | .read _ _ => .pinRead
  | .readFailed _ => .pinRead
  | .sent _ => .busWrite
  | .sendFailed _ => .busWrite
  | .waited _ => .delay
  | .waitFailed _ => .delay

theorem Event.kind_of_failure {e : Event} {k : Kind} (h : e.failure = some k) : e.kind = k := by
  cases e <;> cases h <;> rfl

/-- A byte count that a framed transaction carries (R57, R91). -/
def FrameSize (bytes : List Byte) : Prop := bytes.length = 1 ∨ bytes.length = 2 ∨ bytes.length = 16

/-- A bus write of an exchange has the byte count of a framed transaction; other exchanges carry no bytes. -/
def Event.Sized : Event → Prop
  | .sent bytes => FrameSize bytes
  | .sendFailed bytes => FrameSize bytes
  | _ => True

/-- At most `n` exchanges, each of a kind in `K`, and bus writes of a framed transaction's byte counts. -/
structure Within (K : Kind → Prop) (n : Nat) (events : List Event) : Prop where
  bound : events.length ≤ n
  kinds : ∀ e ∈ events, K e.kind
  sized : ∀ e ∈ events, e.Sized

/-- `t` is `s` after exchanges that left `events`: lines that none of them writes stand as before, and of the rest of the
state only the framebuffer may differ. -/
structure Ran (s : State) (events : List Event) (t : State) : Prop where
  upto : ∃ o m, t = { s.upto events o with fb := m }
  untouched : ∀ l : Line, (∀ e ∈ events, e.kind ≠ l.kind) → t.out.get l = s.out.get l

/-- From `s` to `t` with exchanges within `K` and `n` whose first failure is `error`. -/
def Leaves (K : Kind → Prop) (n : Nat) (s : State) (error : Option Kind) (t : State) : Prop :=
  ∃ events, Ran s events t ∧ firstFailure events = error ∧ Within K n events

/-- The error a procedure yields, if it yields one. -/
def Yield.error {α : Type} : Yield α → Option Kind
  | .ok _ => none
  | .err k => some k

/-- Whatever the answers, the procedure keeps within `K` and `n` and yields the first failure of its exchanges. -/
def Runs {α : Type} (K : Kind → Prop) (n : Nat) (p : Proc α) : Prop := ∀ s, Leaves K n s (p s).1.error (p s).2

variable {K : Kind → Prop} {n m : Nat} {s t u : State} {e f : Option Kind}

theorem firstFailure_append (es fs : List Event) : firstFailure (es ++ fs) = (firstFailure es).or (firstFailure fs) :=
  List.findSome?_append

/-! Runs of exchanges compose. -/

theorem Within.append {es fs : List Event} (h : Within K n es) (g : Within K m fs) : Within K (n + m) (es ++ fs) where
  bound := by simpa using Nat.add_le_add h.bound g.bound
  kinds e he := (List.mem_append.mp he).elim (h.kinds e) (g.kinds e)
  sized e he := (List.mem_append.mp he).elim (h.sized e) (g.sized e)

theorem Ran.trans {es fs : List Event} (h : Ran s es t) (g : Ran t fs u) : Ran s (es ++ fs) u where
  upto := by
    obtain ⟨o, m, rfl⟩ := h.upto
    obtain ⟨o', m', rfl⟩ := g.upto
    exact ⟨o', m', by simp [State.upto, List.drop_drop]⟩
  untouched l hl :=
    (g.untouched l fun e he => hl e (List.mem_append_right es he)).trans
      (h.untouched l fun e he => hl e (List.mem_append_left fs he))

theorem Leaves.refl (s : State) : Leaves K 0 s none s :=
  ⟨[], ⟨⟨s.out, s.fb, rfl⟩, fun _ _ => rfl⟩, rfl, ⟨Nat.le_refl 0, by simp, by simp⟩⟩

theorem Leaves.trans (h : Leaves K n s e t) (g : Leaves K m t f u) : Leaves K (n + m) s (e.or f) u := by
  obtain ⟨es, hran, rfl, hw⟩ := h
  obtain ⟨fs, gran, rfl, gw⟩ := g
  exact ⟨es ++ fs, hran.trans gran, firstFailure_append es fs, hw.append gw⟩

theorem Leaves.mono (h : Leaves K n s e t) (hn : n ≤ m) : Leaves K m s e t := by
  obtain ⟨es, hran, herr, hw⟩ := h
  exact ⟨es, hran, herr, ⟨Nat.le_trans hw.bound hn, hw.kinds, hw.sized⟩⟩

/-- An update of the framebuffer is no exchange. -/
theorem Leaves.with_fb (h : Leaves K n s e t) (mem : Memory) : Leaves K n s e { t with fb := mem } := by
  obtain ⟨es, hran, herr, hw⟩ := h
  obtain ⟨o, m, rfl⟩ := hran.upto
  exact ⟨es, ⟨⟨o, mem, rfl⟩, hran.untouched⟩, herr, hw⟩

section
variable {α β : Type} {p : Proc α} {q : α → Proc β}

theorem Runs.pureP (v : α) : Runs K 0 (pureP v) := Leaves.refl

theorem Runs.mono (h : Runs K n p) (hn : n ≤ m) : Runs K m p := fun s => (h s).mono hn

theorem Runs.andThen (hp : Runs K n p) (hq : ∀ v, Runs K m (q v)) : Runs K (n + m) (andThen p q) := by
  intro s
  have h := hp s
  cases hs : p s with
  | mk y t =>
    rw [hs] at h
    cases y with
    | ok v =>
      rw [andThen_of_ok hs]
      exact h.trans (hq v t)
    | err k =>
      rw [andThen_of_err hs]
      exact h.mono (Nat.le_add_right n m)

theorem Runs.forEach {ι : Type} {body : ι → Proc Unit} (h : ∀ i, Runs K n (body i)) (l : List ι) :
    Runs K (n * l.length) (forEach l body) := by
  induction l with
  | nil => exact Leaves.refl
  | cons i rest ih =>
    refine (Runs.andThen (h i) fun _ => ih).mono ?_
    rw [List.length_cons, Nat.mul_succ, Nat.add_comm]

end

/-! The four primitive exchanges. -/

/-- One exchange, with the latches after it. -/
theorem Leaves.single {ev : Event} {o : Latches} (hk : K ev.kind) (hsize : ev.Sized)
    (ho : ∀ l : Line, ev.kind ≠ l.kind → o.get l = s.out.get l) : Leaves K 1 s ev.failure (s.upto [ev] o) := by
  refine ⟨[ev], ⟨⟨o, s.fb, rfl⟩, fun l hl => ho l (hl ev (List.mem_singleton_self ev))⟩, ?_, ?_⟩
  · cases h : ev.failure <;> simp [firstFailure, h]
  · exact ⟨Nat.le_refl 1, by simpa using hk, by simpa using hsize⟩

theorem Latches.get_set_of_kind_ne (o : Latches) {l m : Line} (h : l.kind ≠ m.kind) (v : Level) :
    (o.set l v).get m = o.get m := Latches.get_set_of_ne o (fun e => h (by rw [e])) v

theorem pinWrite_runs {l : Line} (v : Level) (hK : K l.kind) : Runs K 1 (pinWrite l v) := by
  intro s
  rcases pinWrite_cases l v s with h | h <;> rw [h] <;>
    exact Leaves.single hK trivial fun m hm => Latches.get_set_of_kind_ne _ hm _

theorem pinRead_runs (r : Line4) (hK : K .pinRead) : Runs K 1 (pinRead r) := by
  intro s
  rcases pinRead_cases r s with ⟨v, h⟩ | h <;> rw [h] <;> exact Leaves.single hK trivial fun _ _ => rfl

theorem busWrite_runs {bytes : List Byte} (hsize : FrameSize bytes) (hK : K .busWrite) : Runs K 1 (busWrite bytes) := by
  intro s
  rcases busWrite_cases bytes s with h | h <;> rw [h] <;> exact Leaves.single hK hsize fun _ _ => rfl

theorem delay_runs (hK : K .delay) : Runs K 1 delay := by
  intro s
  rcases delay_cases s with h | h <;> rw [h] <;> exact Leaves.single hK trivial fun _ _ => rfl

/-! The display procedures. -/

/-- The kinds of a framed transaction's exchanges are in `K` (R140). -/
structure HasFrameKinds (K : Kind → Prop) : Prop where
  chipSelect : K .chipSelect
  modeSelect : K .modeSelect
  busWrite : K .busWrite

/-- The de-asserting write comes last whatever the try part did, so an earlier failure stays the first (R140, R141). -/
theorem transaction_runs (hK : HasFrameKinds K) (mode : Level) {bytes : List Byte} (hsize : FrameSize bytes) :
    Runs K 4 (transaction mode bytes) := by
  intro s
  have hbody : Runs K 2 (transactionBody mode bytes) :=
    Runs.andThen (pinWrite_runs mode hK.modeSelect) fun _ => busWrite_runs hsize hK.busWrite
  have hassert := pinWrite_runs (l := .cs) .low hK.chipSelect s
  unfold transaction
  cases h1 : pinWrite .cs .low s with
  | mk y t =>
    rw [h1] at hassert
    cases y with
    | err k => exact hassert.mono (by decide)
    | ok _ =>
      have htry := hbody t
      simp only
      cases h2 : transactionBody mode bytes t with
      | mk z u =>
        rw [h2] at htry
        have hrelease := pinWrite_runs (l := .cs) .high hK.chipSelect u
        cases z with
        | ok _ => exact (hassert.trans htry).trans hrelease
        | err k => exact (hassert.trans htry).trans hrelease

theorem writeColumn_runs (hK : HasFrameKinds K) (a : Nat) {payload : List Byte} (hsize : payload.length = 16) :
    Runs K 12 (writeColumn a payload) :=
  Runs.andThen (Runs.andThen (transaction_runs hK _ (.inl rfl)) fun _ => transaction_runs hK _ (.inl rfl))
    fun _ => transaction_runs hK _ (.inr (.inr hsize))

@[simp] theorem encodeRow_length (m : Memory) (row : Nat) : (encodeRow m row).length = 16 := rfl

theorem renderRow_runs (hK : HasFrameKinds K) (row : Nat) : Runs K 24 (renderRow row) := fun s =>
  Runs.andThen (writeColumn_runs hK _ (encodeRow_length s.fb row))
    (fun _ => writeColumn_runs hK _ (encodeRow_length s.fb row)) s

theorem xorFrom_runs (x y : Byte) (i : Nat) (sprite : List Byte) (hK : sprite ≠ [] → HasFrameKinds K) :
    Runs K (24 * sprite.length) (xorFrom x y i sprite) := by
  induction sprite generalizing i with
  | nil => exact Leaves.refl
  | cons sb rest ih =>
    intro s
    have hframe := hK (List.cons_ne_nil sb rest)
    have hloop := Runs.andThen (renderRow_runs hframe (rowOf y i)) fun _ => ih (i + 1) fun _ => hframe
    have h := ((Leaves.refl s).with_fb (compositeByte s.fb x (rowOf y i) sb)).trans (hloop _)
    exact h.mono (by simp only [List.length_cons]; omega)

theorem clearBody_runs (hK : HasFrameKinds K) : Runs K 768 clearBody := by
  have hcols := Runs.forEach (fun a => writeColumn_runs hK a (payload := zeroPayload) rfl) (List.range 64)
  rw [List.length_range] at hcols
  have hzero : Runs K 0 fun s => ((.ok (), s.zeroFb) : Yield Unit × State) := fun s => (Leaves.refl s).with_fb []
  exact Runs.andThen hcols fun _ => hzero

theorem resetPulse_runs (hK : K .resetLine) : Runs K 3 resetPulse :=
  Runs.andThen (pinWrite_runs _ hK) fun _ => Runs.andThen (pinWrite_runs _ hK) fun _ => pinWrite_runs _ hK

theorem configBody_runs (hK : HasFrameKinds K) : Runs K 28 configBody := by
  have hparam : ∀ c p, Runs K 4 (paramCmd c p) := fun c p => transaction_runs hK .low (.inr (.inl rfl))
  have hsimple : ∀ c, Runs K 4 (simpleCmd c) := fun c => transaction_runs hK .low (.inl rfl)
  exact Runs.andThen (hparam _ _) fun _ => Runs.andThen (hparam _ _) fun _ => Runs.andThen (hsimple _) fun _ =>
    Runs.andThen (hparam _ _) fun _ => Runs.andThen (hparam _ _) fun _ => Runs.andThen (hparam _ _) fun _ => hparam _ _

theorem initBody_runs (hK : HasFrameKinds K) (hrst : K .resetLine) : Runs K 803 initBody :=
  Runs.andThen (resetPulse_runs hrst) fun _ => Runs.andThen (configBody_runs hK) fun _ =>
    Runs.andThen (clearBody_runs hK) fun _ => Runs.andThen (transaction_runs hK .low (.inl rfl)) fun _ => Runs.pureP _

/-! The keypad procedures. -/

theorem readRows_runs (hK : K .pinRead) : Runs K 4 readRows := by
  have h : ∀ (l : List Line4) (rows : BitVec 4), Runs K l.length (readRowsFrom l rows) := by
    intro l
    induction l with
    | nil => exact fun _ => Leaves.refl
    | cons r rest ih =>
      exact fun rows => (Runs.andThen (pinRead_runs r hK) fun _ => ih _).mono (by rw [List.length_cons, Nat.add_comm])
  exact h lines4 0#4

/-- The kinds of the keypad scan's exchanges are in `K` (R116). -/
structure HasScanKinds (K : Kind → Prop) : Prop where
  pinWrite : K .pinWrite
  pinRead : K .pinRead
  delay : K .delay

theorem scanColumns_runs (hK : HasScanKinds K) (l : List Line4) : Runs K (7 * l.length) (scanColumns l) := by
  induction l with
  | nil => exact Leaves.refl
  | cons c rest ih =>
    have hafter : ∀ rows : BitVec 4, Runs K (1 + 7 * rest.length) fun s =>
        match decodeOneHot rows with
        | some r => (.ok (some (Keymap.entry s.keymap r c)), s)
        | none => andThen (pinWrite (.col c) .low) (fun _ => scanColumns rest) s := by
      intro rows s
      cases decodeOneHot rows with
      | some r => exact (Leaves.refl s).mono (Nat.zero_le _)
      | none => exact Runs.andThen (pinWrite_runs .low hK.pinWrite) (fun _ => ih) s
    refine (Runs.andThen (pinWrite_runs .high hK.pinWrite) fun _ => Runs.andThen (delay_runs hK.delay) fun _ =>
      Runs.andThen (readRows_runs hK.pinRead) hafter).mono ?_
    rw [List.length_cons]
    omega

theorem scan_runs (hK : HasScanKinds K) : Runs K 32 scan :=
  Runs.andThen (n := 4) (Runs.forEach (fun _ => pinWrite_runs .low hK.pinWrite) lines4) fun _ =>
    scanColumns_runs hK lines4

/-- Every write of the restoration is made, and the error is the first of theirs after the one already known (R117). -/
theorem restoreFrom_leaves (hK : K .pinWrite) (l : List Line4) (first : Option Kind) (s : State) :
    ∃ error, (restoreFrom l first s).1 = first.or error ∧ Leaves K l.length s error (restoreFrom l first s).2 := by
  induction l generalizing first s with
  | nil => exact ⟨none, (Option.or_none).symm, Leaves.refl s⟩
  | cons c rest ih =>
    have hwrite := pinWrite_runs (l := .col c) .high hK s
    unfold restoreFrom
    cases h : pinWrite (.col c) .high s with
    | mk y t =>
      rw [h] at hwrite
      have hlen : 1 + rest.length ≤ (c :: rest).length := by rw [List.length_cons, Nat.add_comm]
      cases y with
      | ok _ =>
        obtain ⟨error, herr, hrest⟩ := ih first t
        exact ⟨error, herr, (hwrite.trans hrest).mono hlen⟩
      | err k =>
        obtain ⟨error, herr, hrest⟩ := ih (first.or (some k)) t
        exact ⟨(some k).or error, by rw [herr, Option.or_assoc], (hwrite.trans hrest).mono hlen⟩

theorem restore_leaves (hK : K .pinWrite) (s : State) : Leaves K 4 s (restore s).1 (restore s).2 := by
  obtain ⟨error, herr, h⟩ := restoreFrom_leaves hK lines4 none s
  have hsame : (restore s).1 = error := herr.trans Option.none_or
  rw [hsame]
  exact h

/-- The scan's error wins over the restoration's (R215). -/
theorem error_scanVerdict (y : Yield (Option Nibble)) (error : Option Kind) :
    (scanVerdict y error).error = y.error.or error := by
  cases y <;> cases error <;> rfl

theorem readKeyBody_runs (hK : HasScanKinds K) : Runs K 40 readKeyBody := by
  refine Runs.andThen (m := 36) (readRows_runs hK.pinRead) fun rows s => ?_
  split
  · exact (Leaves.refl s).mono (by decide)
  · simp only [error_scanVerdict]
    exact (scan_runs hK s).trans (restore_leaves hK.pinWrite _)

/-! The operations. -/

/-- The kinds that R213's table allows an operation. -/
abbrev MayReport (i : Instr) (k : Kind) : Prop := mayReport i k = true

/-- `t` is `s` after the operation `i`, whose exchanges left `events`. -/
structure HostRun (i : Instr) (s : State) (events : List Event) (t : State) : Prop where
  newEvents : NewEvents s t events
  within : Within (MayReport i) (exchangeBound i) events
  env : t.env = s.env.drop events.length
  cmdIn : t.cmdIn = s.cmdIn
  seq : t.seq = .idle
  responses : t.responses.length = s.responses.length + 1
  untouched : ∀ l : Line, ¬MayReport i l.kind → t.out.get l = s.out.get l
  keymap : (∀ k, i ≠ .setKeymap k) → t.keymap = s.keymap
  failed : ∀ k, firstFailure events = some k → t.result = ⟨statusOf k, 0#5, true⟩
  succeeded : firstFailure events = none → (∀ b, i ≠ .reserved b) → t.result.status = 0x0#4

/-- An operation whose body keeps within the table of R213 and the bound of R198 does so with its response. -/
theorem hostRun_respond {i : Instr} {body : Proc (BitVec 5)} (h : Runs (MayReport i) (exchangeBound i) body)
    (s : State) (o : Operands) : ∃ events, HostRun i s events (respond (body (s.load o))) := by
  obtain ⟨events, hran, herr, hw⟩ := h (s.load o)
  obtain ⟨o', m, hm⟩ := hran.upto
  have huntouched : ∀ l : Line, ¬MayReport i l.kind → (body (s.load o)).2.out.get l = s.out.get l :=
    fun l hl => hran.untouched l fun e he hkind => hl (hkind ▸ hw.kinds e he)
  refine ⟨events, ?_⟩
  cases hbody : body (s.load o) with
  | mk y t =>
    rw [hbody] at hm herr huntouched
    simp only at hm huntouched
    cases y with
    | ok v =>
      have hnone : firstFailure events = none := herr
      exact ⟨by rw [hm]; rfl, hw, by rw [hm]; rfl, by rw [hm]; rfl, rfl, by rw [hm]; rfl, huntouched,
        fun _ => by rw [hm]; rfl, fun k hk => by simp [hnone] at hk, fun _ _ => rfl⟩
    | err k =>
      have hsome : firstFailure events = some k := herr
      exact ⟨by rw [hm]; rfl, hw, by rw [hm]; rfl, by rw [hm]; rfl, rfl, by rw [hm]; rfl, huntouched,
        fun _ => by rw [hm]; rfl, fun k' hk' => by rw [hsome] at hk'; cases hk'; rfl, fun hk' => by simp [hsome] at hk'⟩

/-- Every host operation, whatever the environment answers. -/
theorem exec_hostRun {i : Instr} (hi : i.interface = .hostDescriptor) (s : State) :
    ∃ t events, exec i s = .next t ∧ HostRun i s events t := by
  have hnoExchange : ∀ i, Within (MayReport i) (exchangeBound i) [] := fun i => ⟨Nat.zero_le _, by simp, by simp⟩
  have hnoFailure : ∀ k, firstFailure [] ≠ some k := fun _ => by simp [firstFailure]
  cases i, hi using Instr.host_cases with
  | init =>
    have hbody : Runs (MayReport .init) 803 initBody := initBody_runs ⟨rfl, rfl, rfl⟩ rfl
    obtain ⟨events, h⟩ := hostRun_respond hbody s _
    exact ⟨_, events, rfl, h⟩
  | clear =>
    have hbody : Runs (MayReport .clear) 768 clearBody := clearBody_runs ⟨rfl, rfl, rfl⟩
    obtain ⟨events, h⟩ := hostRun_respond (hbody.andThen fun _ => Runs.pureP _) s _
    exact ⟨_, events, rfl, h⟩
  | xor x y sprite =>
    have hbody : Runs (MayReport (.xor x y sprite)) (24 * sprite.length) (xorFrom x y 0 sprite) :=
      xorFrom_runs x y 0 sprite fun hne => ⟨decide_eq_true hne, decide_eq_true hne, decide_eq_true hne⟩
    obtain ⟨events, h⟩ := hostRun_respond (hbody.andThen fun _ => Runs.pureP _) s _
    exact ⟨_, events, rfl, h⟩
  | isAnyKeyPressed =>
    have hbody : Runs (MayReport .isAnyKeyPressed) 4 readRows := readRows_runs rfl
    obtain ⟨events, h⟩ := hostRun_respond (hbody.andThen fun _ => Runs.pureP _) s _
    exact ⟨_, events, rfl, h⟩
  | readKey =>
    have hbody : Runs (MayReport .readKey) 40 readKeyBody := readKeyBody_runs ⟨rfl, rfl, rfl⟩
    obtain ⟨events, h⟩ := hostRun_respond hbody s _
    exact ⟨_, events, rfl, h⟩
  | setKeymap table =>
    exact ⟨_, [], rfl, rfl, hnoExchange _, rfl, rfl, rfl, rfl, fun _ _ => rfl, fun h => absurd rfl (h table),
      fun k h => absurd h (hnoFailure k), fun _ _ => rfl⟩
  | reserved opcode =>
    exact ⟨_, [], rfl, rfl, hnoExchange _, rfl, rfl, rfl, rfl, fun _ _ => rfl, fun _ => rfl,
      fun k h => absurd h (hnoFailure k), fun _ h => absurd rfl (h opcode)⟩

/-- A run ends in one state and leaves one trace. -/
theorem NewEvents.unique {s t : State} {es fs : List Event} (h : NewEvents s t es) (g : NewEvents s t fs) : es = fs :=
  List.reverse_injective (List.append_cancel_right (h.symm.trans g))

/-- The operation that answered `t` and left `events` is the one described by `HostRun`. -/
theorem hostRun_of_exec {i : Instr} (hi : i.interface = .hostDescriptor) {s t : State} (h : exec i s = .next t) :
    ∃ events, HostRun i s events t := by
  obtain ⟨t', events, ht', hrun⟩ := exec_hostRun hi s
  cases h.symm.trans ht'
  exact ⟨events, hrun⟩

theorem hostRun_of_exec_of_newEvents {i : Instr} (hi : i.interface = .hostDescriptor) {s t : State}
    {events : List Event} (h : exec i s = .next t) (hev : NewEvents s t events) : HostRun i s events t := by
  obtain ⟨events', hrun⟩ := hostRun_of_exec hi h
  rwa [← hrun.newEvents.unique hev]

/-- Settles O59: the bound of R198 holds for each procedure and adds up along the operation. -/
theorem operationsAreBounded : Obligations.OperationsAreBounded := by
  unfold Obligations.OperationsAreBounded
  intro i s hi
  obtain ⟨t, events, ht, h⟩ := exec_hostRun hi s
  exact ⟨t, events, ht, h.newEvents, h.within.bound, h.env, h.responses, h.seq⟩

/-- Settles O57: each procedure yields the first failure of its exchanges, and the response carries what the body
yielded. -/
theorem firstFailureIsReported : Obligations.FirstFailureIsReported := by
  unfold Obligations.FirstFailureIsReported
  intro i s t events hi ht hev
  have h := hostRun_of_exec_of_newEvents hi ht hev
  exact ⟨h.failed, h.succeeded⟩

/-- Settles O42: every transaction is a command of one or two bytes or sixteen bytes of data. -/
theorem busWritesHaveThreeLengths : Obligations.BusWritesHaveThreeLengths := by
  unfold Obligations.BusWritesHaveThreeLengths
  intro i s t events bytes hi ht hev hmem
  have h := hostRun_of_exec_of_newEvents hi ht hev
  rcases hmem with hmem | hmem
  · exact h.within.sized _ hmem
  · exact h.within.sized _ hmem

end Sys2Proof.Machine
end

section
/-! PROOF. A procedure stopped at its first failing exchange (spec/60_exceptions.md rule R214): the trace of the
successful run up to it, the failed exchange, and the clean-up write if it lay in the try part of a transaction
(spec/41_serial_command_sequencer.md rules R140, R141). -/

namespace Sys2Proof.Machine

variable {s t : State} {es fs : List Event} {fb : Nat → Memory}

/-! The first failure. -/

/-- Among the next `n` exchanges either none fails or one is the first to fail. -/
theorem State.allSucceed_or_firstFailureAt (s : State) (n : Nat) :
    s.AllSucceed n ∨ ∃ k < n, s.FirstFailureAt k := by
  induction n with
  | zero => exact .inl fun k hk => absurd hk (Nat.not_lt_zero k)
  | succ n ih =>
    rcases ih with h | ⟨k, hk, hfail⟩
    · by_cases hn : s.answerAt n = .fails
      · exact .inr ⟨n, Nat.lt_succ_self n, h, hn⟩
      · refine .inl fun k hk => ?_
        rcases Nat.lt_succ_iff_lt_or_eq.mp hk with hlt | rfl
        · exact h k hlt
        · exact hn
    · exact .inr ⟨k, Nat.lt_succ_of_lt hk, hfail⟩

theorem State.FirstFailureAt.ran (h : s.FirstFailureAt (es.length + k)) (henv : t.env = s.env.drop es.length)
    (hlog : t.log = es.reverse ++ s.log) : t.FirstFailureAt k := by
  have hanswer := State.answerAt_of_ran henv hlog
  refine ⟨fun j hj => ?_, (hanswer k).trans h.2⟩
  rw [hanswer]
  exact h.1 _ (Nat.add_lt_add_left hj _)

theorem State.FirstFailureAt.upto {k : Nat} (h : s.FirstFailureAt (es.length + k)) (o : Latches) :
    (s.upto es o).FirstFailureAt k := h.ran rfl rfl

theorem releaseEvent_upto (s : State) (es : List Event) (o : Latches) (k : Nat) :
    releaseEvent (s.upto es o) k = releaseEvent s (es.length + k) := by
  unfold releaseEvent
  rw [State.answerAt_upto]

/-! A framebuffer put in the place of another. -/

/-- The state with framebuffer `m`. -/
def State.withFb (s : State) (m : Memory) : State := { s with fb := m }

section
variable (s : State) (m n : Memory) (es : List Event) (o : Latches)

@[simp] theorem State.withFb_fb : (s.withFb m).fb = m := rfl
@[simp] theorem State.withFb_keymap : (s.withFb m).keymap = s.keymap := rfl
@[simp] theorem State.withFb_out : (s.withFb m).out = s.out := rfl
@[simp] theorem State.withFb_env : (s.withFb m).env = s.env := rfl
@[simp] theorem State.withFb_log : (s.withFb m).log = s.log := rfl
@[simp] theorem State.withFb_cmdIn : (s.withFb m).cmdIn = s.cmdIn := rfl
@[simp] theorem State.withFb_responses : (s.withFb m).responses = s.responses := rfl
@[simp] theorem State.withFb_self : s.withFb s.fb = s := rfl
@[simp] theorem State.withFb_withFb : (s.withFb m).withFb n = s.withFb n := rfl
@[simp] theorem State.upto_withFb : (s.withFb m).upto es o = (s.upto es o).withFb m := rfl

@[simp] theorem State.answerAt_withFb (k : Nat) : (s.withFb m).answerAt k = s.answerAt k := rfl
@[simp] theorem releaseEvent_withFb (k : Nat) : releaseEvent (s.withFb m) k = releaseEvent s k := rfl

end

theorem State.AllSucceed.withFb {n : Nat} (h : s.AllSucceed n) (m : Memory) : (s.withFb m).AllSucceed n := h

/-! Stopping. -/

/-- The trace of a run that would have left `es`, stopped at exchange `k`, which would have left `e` (R141, R214). -/
def stoppedEvents (s : State) (es : List Event) (k : Nat) (e : Event) : List Event :=
  es.take k ++ [e.failed] ++ (if e.inTryPart then [releaseEvent s (k + 1)] else [])

/-- From `s` the procedure, whose trace would be `es`, stops at its first failing exchange `k` with that exchange's kind;
the framebuffer is then `fb k`. -/
def StopsWith {α : Type} (p : Proc α) (s : State) (es : List Event) (fb : Nat → Memory) : Prop :=
  ∀ k e, s.FirstFailureAt k → es[k]? = some e →
    ∃ o, p s = (.err e.kind, (s.upto (stoppedEvents s es k e) o).withFb (fb k))

/-- The procedure stops so and leaves the framebuffer as it was. -/
def Stops {α : Type} (p : Proc α) (s : State) (es : List Event) : Prop := StopsWith p s es fun _ => s.fb

section
variable {α β : Type} {p : Proc α} {q : α → Proc β}

theorem Stops.nil : Stops p s [] := fun _ _ _ h => by simp at h

theorem StopsWith.of_eq {p' : Proc α} (h : StopsWith p s es fb) (hp : p' s = p s) : StopsWith p' s es fb := by
  intro k e hk he
  rw [hp]
  exact h k e hk he

theorem StopsWith.congr {fb' : Nat → Memory} (h : StopsWith p s es fb) (hfb : ∀ k < es.length, fb' k = fb k) :
    StopsWith p s es fb' := by
  intro k e hk he
  obtain ⟨hlt, -⟩ := List.getElem?_eq_some_iff.mp he
  rw [hfb k hlt]
  exact h k e hk he

/-- The trace of a run stopped in its second part, seen from that part. -/
theorem stoppedEvents_append (s : State) (es fs : List Event) (o : Latches) (j : Nat) (e : Event) :
    stoppedEvents s (es ++ fs) (es.length + j) e = es ++ stoppedEvents (s.upto es o) fs j e := by
  simp only [stoppedEvents, List.take_length_add_append, releaseEvent_upto, List.append_assoc, Nat.add_assoc]

/-- What comes after a failure is not run, and what comes after a success starts where that one ended. -/
theorem StopsWith.andThen {v : α} {o : Latches} {m : Memory} {fb' : Nat → Memory} (hp : StopsWith p s es fb)
    (hok : s.AllSucceed es.length → p s = (.ok v, (s.upto es o).withFb m))
    (hq : StopsWith (q v) ((s.upto es o).withFb m) fs fb') (hfb : ∀ j, fb (es.length + j) = fb' j) :
    StopsWith (andThen p q) s (es ++ fs) fb := by
  intro k e hk he
  by_cases hlt : k < es.length
  · rw [List.getElem?_append_left hlt] at he
    obtain ⟨o', hstop⟩ := hp k e hk he
    refine ⟨o', ?_⟩
    rw [andThen_of_err hstop]
    simp only [stoppedEvents, List.take_append_of_le_length (Nat.le_of_lt hlt)]
  · obtain ⟨j, rfl⟩ := Nat.exists_eq_add_of_le (Nat.le_of_not_lt hlt)
    rw [List.getElem?_append_right (Nat.le_add_right _ _), Nat.add_sub_cancel_left] at he
    obtain ⟨o', hstop⟩ := hq j e (hk.ran rfl rfl) he
    refine ⟨o', ?_⟩
    rw [andThen_of_ok (hok (hk.1.mono (Nat.le_add_right _ _))), hstop, hfb, stoppedEvents_append s es fs o]
    simp only [State.upto_withFb, State.upto_upto, State.withFb_withFb]
    rfl

/-- A sequence that leaves the framebuffer alone. -/
theorem Stops.andThen {v : α} {o : Latches} (hp : Stops p s es)
    (hok : s.AllSucceed es.length → p s = (.ok v, s.upto es o)) (hq : Stops (q v) (s.upto es o) fs) :
    Stops (andThen p q) s (es ++ fs) :=
  StopsWith.andThen (m := s.fb) hp hok hq fun _ => rfl

/-- What follows without an exchange cannot stop. -/
theorem StopsWith.andThen_nothing {v : α} {o : Latches} {m : Memory} (hp : StopsWith p s es fb)
    (hok : s.AllSucceed es.length → p s = (.ok v, (s.upto es o).withFb m)) : StopsWith (Machine.andThen p q) s es fb := by
  have h := StopsWith.andThen (q := q) (fs := []) hp hok (fun _ _ _ h => by simp at h) fun _ => rfl
  rwa [List.append_nil] at h

theorem Stops.andThen_nothing {v : α} {o : Latches} (hp : Stops p s es)
    (hok : s.AllSucceed es.length → p s = (.ok v, s.upto es o)) : Stops (Machine.andThen p q) s es :=
  StopsWith.andThen_nothing (m := s.fb) hp hok

end

/-! The primitive exchanges outside a try part. -/

theorem pinWrite_stops (s : State) {l : Line} (v : Level) (hl : l ≠ .dc) :
    Stops (pinWrite l v) s [.wrote l v] := by
  intro k e hk he
  obtain ⟨hlt, rfl⟩ := List.getElem?_eq_some_iff.mp he
  obtain rfl : k = 0 := by simpa using hlt
  have hout : (Event.wrote l v).inTryPart = false := by
    cases l with
    | dc => exact absurd rfl hl
    | _ => rfl
  rw [pinWrite_fails l v hk.2, List.getElem_cons_zero, stoppedEvents, hout]
  exact ⟨_, rfl⟩

theorem pinRead_stops (s : State) (r : Line4) : Stops (pinRead r) s [.read r (s.levelAt 0)] := by
  intro k e hk he
  obtain ⟨hlt, rfl⟩ := List.getElem?_eq_some_iff.mp he
  obtain rfl : k = 0 := by simpa using hlt
  exact ⟨_, pinRead_fails r hk.2⟩

theorem delay_stops (s : State) : Stops delay s [.waited 500] := by
  intro k e hk he
  obtain ⟨hlt, rfl⟩ := List.getElem?_eq_some_iff.mp he
  obtain rfl : k = 0 := by simpa using hlt
  exact ⟨_, delay_fails hk.2⟩

/-! The paths of a transaction (R140, R141). -/

section
variable (mode : Level) (bytes : List Byte)

/-- The de-asserting write after a failed try part leaves its event, whatever it answers. -/
theorem pinWrite_release (s : State) : ∃ o, (pinWrite .cs .high s).2 = s.upto [releaseEvent s 0] o := by
  unfold releaseEvent
  by_cases h : s.answerAt 0 = .fails
  · rw [if_pos h, pinWrite_fails .cs .high h]
    exact ⟨_, rfl⟩
  · rw [if_neg h, pinWrite_ok .cs .high h]
    exact ⟨_, rfl⟩

theorem transaction_assert_fails (h : s.FirstFailureAt 0) :
    ∃ o, transaction mode bytes s = (.err .chipSelect, s.upto [.writeFailed .cs .low] o) := by
  unfold transaction
  rw [pinWrite_fails _ _ h.2]
  exact ⟨_, rfl⟩

/-- A failed try part, which left `events`, is followed by the de-asserting write and is what the transaction yields. -/
theorem transaction_body_fails {events : List Event} {o : Latches} {k : Kind} (h0 : s.answerAt 0 ≠ .fails)
    (hbody : transactionBody mode bytes (s.upto [.wrote .cs .low] (s.out.set .cs .low)) =
      (.err k, (s.upto [.wrote .cs .low] (s.out.set .cs .low)).upto events o)) :
    ∃ o', transaction mode bytes s =
      (.err k, s.upto (.wrote .cs .low :: events ++ [releaseEvent s (events.length + 1)]) o') := by
  unfold transaction
  rw [pinWrite_ok _ _ h0]
  simp only
  rw [hbody, State.upto_upto]
  obtain ⟨o', ho'⟩ := pinWrite_release (s.upto ([.wrote .cs .low] ++ events) o)
  refine ⟨o', ?_⟩
  simp only [ho', State.upto_upto, releaseEvent_upto]
  rw [List.length_append, Nat.add_comm [Event.wrote .cs .low].length]
  rfl

theorem transaction_mode_fails (h : s.FirstFailureAt 1) :
    ∃ o, transaction mode bytes s =
      (.err .modeSelect, s.upto [.wrote .cs .low, .writeFailed .dc mode, releaseEvent s 2] o) := by
  have hdc : (s.upto [.wrote .cs .low] (s.out.set .cs .low)).answerAt 0 = .fails := by simpa using h.2
  exact transaction_body_fails mode bytes (h.1 0 (by decide)) (andThen_of_err (pinWrite_fails _ _ hdc))

theorem transaction_send_fails (h : s.FirstFailureAt 2) :
    ∃ o, transaction mode bytes s =
      (.err .busWrite, s.upto [.wrote .cs .low, .wrote .dc mode, .sendFailed bytes, releaseEvent s 3] o) := by
  have hdc : (s.upto [.wrote .cs .low] (s.out.set .cs .low)).answerAt 0 ≠ .fails := by simpa using h.1 1 (by decide)
  have hbody := (andThen_of_ok (f := fun _ => busWrite bytes) (pinWrite_ok .dc mode hdc)).trans
    (busWrite_fails bytes (by simpa using h.2))
  rw [State.upto_upto] at hbody
  exact transaction_body_fails mode bytes (h.1 0 (by decide)) hbody

theorem transaction_release_fails (h : s.FirstFailureAt 3) :
    ∃ o, transaction mode bytes s =
      (.err .chipSelect, s.upto [.wrote .cs .low, .wrote .dc mode, .sent bytes, .writeFailed .cs .high] o) := by
  unfold transaction transactionBody
  rw [pinWrite_ok _ _ (h.1 0 (by decide))]
  simp only
  rw [andThen_of_ok (pinWrite_ok _ _ (by simpa using h.1 1 (by decide))),
    busWrite_ok _ (by simpa using h.1 2 (by decide))]
  simp only [State.upto_upto]
  rw [pinWrite_fails _ _ (by simpa using h.2)]
  exact ⟨_, by rw [State.upto_upto]; rfl⟩

/-- The four places of a failure in a transaction are the four of the trace of a successful one. -/
theorem transaction_stops (s : State) :
    Stops (transaction mode bytes) s (frameEvents mode bytes) := by
  intro k e hk he
  obtain ⟨hlt, rfl⟩ := List.getElem?_eq_some_iff.mp he
  rw [frameEvents_length] at hlt
  match k, hlt with
  | 0, _ => exact transaction_assert_fails mode bytes hk
  | 1, _ => exact transaction_mode_fails mode bytes hk
  | 2, _ => exact transaction_send_fails mode bytes hk
  | 3, _ => exact transaction_release_fails mode bytes hk

end

/-- Settles O37: the five paths, by where the first failure lies. -/
theorem transactionPaths : Obligations.TransactionPaths := by
  unfold Obligations.TransactionPaths
  intro s mode bytes
  refine ⟨fun h => ?_, fun h => ?_, fun h => ?_, fun h => ?_, fun h => ?_⟩
  · obtain ⟨o, ho⟩ := transaction_assert_fails mode bytes h
    rw [ho]
    exact ⟨rfl, rfl⟩
  · obtain ⟨o, ho⟩ := transaction_mode_fails mode bytes h
    rw [ho]
    exact ⟨rfl, rfl⟩
  · obtain ⟨o, ho⟩ := transaction_send_fails mode bytes h
    rw [ho]
    exact ⟨rfl, rfl⟩
  · obtain ⟨o, ho⟩ := transaction_release_fails mode bytes h
    rw [ho]
    exact ⟨rfl, rfl⟩
  · rw [transaction_ok mode bytes h]
    exact ⟨rfl, rfl, rfl⟩

/-! The display procedures. -/

theorem setColumn_ok (a : Nat) (h : s.AllSucceed 8) :
    setColumn a s = (.ok (), s.shown (frameEvents .low [Config.colLoCmd (addrLo a)] ++
      frameEvents .low [Config.colHiCmd (addrHi a)]) .low) := by
  unfold setColumn
  rw [andThen_of_ok (simpleCmd_ok _ (h.mono (by decide))), simpleCmd_ok _ (h.shown (by simp) _), State.shown_shown]

theorem writeColumn_stops (s : State) (a : Nat) (payload : List Byte) :
    Stops (writeColumn a payload) s (columnEvents payload a) := by
  have hset : Stops (setColumn a) s (frameEvents .low [Config.colLoCmd (addrLo a)] ++
      frameEvents .low [Config.colHiCmd (addrHi a)]) :=
    (transaction_stops _ _ s).andThen (transaction_ok _ _) (transaction_stops _ _ _)
  exact hset.andThen (setColumn_ok a) (transaction_stops _ _ _)

theorem renderRow_stops (s : State) (row : Nat) :
    Stops (renderRow row) s (rowEvents row (encodeRow s.fb row)) := by
  have h := (writeColumn_stops s (physCol row) (encodeRow s.fb row)).andThen
    (q := fun _ => writeColumn (physCol row + 1) (encodeRow s.fb row)) (writeColumn_ok _ _) (writeColumn_stops _ _ _)
  exact h.of_eq rfl

theorem forEach_writeColumn_stops (s : State) (l : List Nat) (payload : List Byte) :
    Stops (forEach l fun a => writeColumn a payload) s (l.flatMap (columnEvents payload)) := by
  induction l generalizing s with
  | nil => exact Stops.nil
  | cons a rest ih => exact (writeColumn_stops s a payload).andThen (writeColumn_ok _ _) (ih _)



theorem clearBody_stops (s : State) : Stops clearBody s clearEvents := by
  have hlen : (List.range 64).length = 64 := List.length_range
  have hcols : s.AllSucceed clearEvents.length → forEach (List.range 64) (fun a => writeColumn a zeroPayload) s =
      (.ok (), s.upto clearEvents (s.out.afterUnits 64)) := by
    intro h
    rw [clearEvents_length] at h
    rw [forEach_writeColumn_ok (List.range 64) zeroPayload (by rwa [hlen]), hlen]
    rfl
  have hstops : Stops (forEach (List.range 64) fun a => writeColumn a zeroPayload) s clearEvents :=
    forEach_writeColumn_stops s (List.range 64) zeroPayload
  exact hstops.andThen_nothing hcols

theorem pinWrite_rst_ok (v : Level) (h : s.AllSucceed 1) :
    pinWrite .rst v s = (.ok (), s.upto [.wrote .rst v] (s.out.set .rst v)) := pinWrite_ok _ _ (h 0 (by decide))

theorem resetPulse_stops (s : State) : Stops resetPulse s pulseEvents :=
  (pinWrite_stops s _ (by decide)).andThen (pinWrite_rst_ok _)
    ((pinWrite_stops _ _ (by decide)).andThen (pinWrite_rst_ok _) (pinWrite_stops _ _ (by decide)))

theorem configBody_stops (s : State) : Stops configBody s configEvents :=
  (transaction_stops _ _ s).andThen (transaction_ok _ _) <|
  (transaction_stops _ _ _).andThen (transaction_ok _ _) <|
  (transaction_stops _ _ _).andThen (transaction_ok _ _) <|
  (transaction_stops _ _ _).andThen (transaction_ok _ _) <|
  (transaction_stops _ _ _).andThen (transaction_ok _ _) <|
  (transaction_stops _ _ _).andThen (transaction_ok _ _) <|
  transaction_stops _ _ _


/-- The framebuffer of an INIT stopped at exchange `k`: zero once the framebuffer reset has been passed (R150, R195). -/
def initFb (m : Memory) (k : Nat) : Memory := if k < 799 then m else []

theorem initBody_stops (s : State) : StopsWith initBody s initEvents (initFb s.fb) := by
  have hbefore : ∀ k < 799, initFb s.fb k = s.fb := fun _ hk => if_pos hk
  have hlast : ∀ u : State, Stops (andThen (simpleCmd Config.cmdDisplayOn) fun _ => pureP valueNone) u
      (frameEvents .low [Config.cmdDisplayOn]) := fun u =>
    (transaction_stops _ _ u).andThen_nothing (transaction_ok _ _)
  have hevents : initEvents = pulseEvents ++ (configEvents ++ (clearEvents ++ frameEvents .low [Config.cmdDisplayOn])) := by
    simp only [initEvents, List.append_assoc]
  rw [hevents]
  refine StopsWith.andThen (m := s.fb) (fb' := fun j => initFb s.fb (3 + j))
    ((resetPulse_stops s).congr fun k hk => hbefore k (by simp at hk; omega)) resetPulse_ok ?_ fun _ => rfl
  refine StopsWith.andThen (m := s.fb) (fb' := fun j => initFb s.fb (3 + (28 + j)))
    ((configBody_stops _).congr fun k hk => hbefore _ (by simp at hk; omega)) configBody_ok ?_ fun _ => rfl
  refine StopsWith.andThen (m := []) (fb' := fun _ => [])
    ((clearBody_stops _).congr fun k hk => hbefore _ (by simp at hk; omega)) (fun h => clearBody_ok (by simpa using h))
    (hlast _) fun j => if_neg (by simp; omega)

/-- A run from a state with another framebuffer, which the run puts in place first. -/
theorem StopsWith.of_withFb {α : Type} {p p' : Proc α} {m : Memory} (h : StopsWith p (s.withFb m) es fb)
    (hp : p' s = p (s.withFb m)) : StopsWith p' s es fb := by
  intro k e hk he
  obtain ⟨o, hstop⟩ := h k e hk he
  exact ⟨o, by rw [hp, hstop]; rfl⟩

/-- Sprite bytes 0 to `k div 24` of the part still to do have been composited when exchange `k` fails (R190, D26). -/
theorem xorFrom_stops (x y : Byte) (i : Nat) (sprite : List Byte) (s : State) :
    StopsWith (xorFrom x y i sprite) s (xorEvents x y i sprite s.fb)
      fun k => compositeFrom x y i (sprite.take (k / 24 + 1)) s.fb := by
  induction sprite generalizing i s with
  | nil => exact fun _ _ _ h => by simp [xorEvents] at h
  | cons sb rest ih =>
    have hthis : ∀ k < 24, compositeFrom x y i ((sb :: rest).take (k / 24 + 1)) s.fb =
        compositeByte s.fb x (rowOf y i) sb := fun k hk => by rw [Nat.div_eq_of_lt hk]; rfl
    have hnext : ∀ j, compositeFrom x y i ((sb :: rest).take ((24 + j) / 24 + 1)) s.fb =
        compositeFrom x y (i + 1) (rest.take (j / 24 + 1)) (compositeByte s.fb x (rowOf y i) sb) := fun j => by
      rw [Nat.add_div_left j (by decide)]
      rfl
    have h := StopsWith.andThen (m := compositeByte s.fb x (rowOf y i) sb)
      (q := fun _ => xorFrom x y (i + 1) rest)
      ((renderRow_stops (s.withFb (compositeByte s.fb x (rowOf y i) sb)) (rowOf y i)).congr hthis)
      (renderRow_ok (rowOf y i)) (ih (i + 1) _) hnext
    exact h.of_withFb rfl

/-! The operations. -/

/-- An operation that loads its operands, makes exchanges, leaves a framebuffer and responds. -/
theorem Responded.of_upto (s : State) (p : Operands) (es : List Event) (o : Latches) (m : Memory) (status : Nibble)
    (value : BitVec 5) :
    Responded s (writeResponse (categoryOf status) status value (((s.load p).upto es o).withFb m)) es status value :=
  ⟨rfl, rfl, rfl, rfl, rfl, rfl⟩

/-- An operation whose body stops at exchange `k` answers that exchange's error (R214). -/
theorem respond_of_stops {body : Proc (BitVec 5)} {o : Operands} {k : Nat} {e : Event}
    (h : StopsWith body (s.load o) es fb) (hk : s.FirstFailureAt k) (he : es[k]? = some e) :
    Responded s (respond (body (s.load o))) (stoppedEvents s es k e) (statusOf e.kind) 0#5 ∧
    (respond (body (s.load o))).fb = fb k ∧ (respond (body (s.load o))).keymap = s.keymap := by
  obtain ⟨o', hstop⟩ := h k e hk he
  rw [hstop]
  exact ⟨Responded.of_upto s o (stoppedEvents s es k e) o' (fb k) (statusOf e.kind) valueNone, rfl, rfl⟩

/-- The framebuffer that a display operation stopped at exchange `k` leaves (D26). -/
def displayFb (s : State) (k : Nat) : Instr → Memory
  | .init => initFb s.fb k
  | .xor x y sprite => compositeFrom x y 0 (sprite.take (k / 24 + 1)) s.fb
  | _ => s.fb

/-- A display operation stopped at exchange `k`, which would have left `e` (R214). -/
theorem exec_display_stops {i : Instr} {k : Nat} {e : Event} (hk : s.FirstFailureAt k)
    (he : (displayTrace s i)[k]? = some e) :
    ∃ t, exec i s = .next t ∧ Responded s t (stoppedEvents s (displayTrace s i) k e) (statusOf e.kind) 0#5 ∧
      t.fb = displayFb s k i ∧ t.keymap = s.keymap := by
  cases i with
  | init => exact ⟨_, rfl, respond_of_stops (initBody_stops _) hk he⟩
  | clear =>
    have hbody : ∀ o, Stops (andThen clearBody fun _ => pureP valueNone) (s.load o) clearEvents := fun o =>
      StopsWith.andThen_nothing (m := []) (clearBody_stops (s.load o)) fun h => clearBody_ok (by simpa using h)
    exact ⟨_, rfl, respond_of_stops (hbody _) hk he⟩
  | xor x y sprite =>
    have hbody : ∀ o, StopsWith (andThen (xorFrom x y 0 sprite) fun _ => pureP xorResult) (s.load o)
        (xorEvents x y 0 sprite s.fb) fun k => compositeFrom x y 0 (sprite.take (k / 24 + 1)) s.fb := fun o =>
      StopsWith.andThen_nothing (m := compositeFrom x y 0 sprite s.fb) (xorFrom_stops x y 0 sprite (s.load o))
        fun h => xorFrom_ok x y 0 sprite (by simpa using h)
    exact ⟨_, rfl, respond_of_stops (hbody _) hk he⟩
  | _ => simp [displayTrace] at he

/-- Settles O31: the body of each display operation stops so, and its response makes no exchange. -/
theorem displayAbortIsPrecise : Obligations.DisplayAbortIsPrecise := by
  unfold Obligations.DisplayAbortIsPrecise
  intro i s k e hk he
  obtain ⟨t, ht, ⟨hlog, -⟩, -⟩ := exec_display_stops hk he
  exact ⟨t, ht, hlog⟩

/-! The kind of an exchange by its place (R140, R150). -/

/-- A run of whole transactions: the exchanges have the kinds of the four places in turn. -/
def Framed (es : List Event) : Prop := es.length % 4 = 0 ∧ ∀ k e, es[k]? = some e → e.kind = frameKind (k % 4)

theorem Framed.append (h : Framed es) (g : Framed fs) : Framed (es ++ fs) := by
  obtain ⟨hlen, hkind⟩ := h
  obtain ⟨glen, gkind⟩ := g
  refine ⟨by rw [List.length_append]; omega, fun k e he => ?_⟩
  by_cases hlt : k < es.length
  · rw [List.getElem?_append_left hlt] at he
    exact hkind k e he
  · rw [List.getElem?_append_right (Nat.le_of_not_lt hlt)] at he
    have hplace : (k - es.length) % 4 = k % 4 := by omega
    rw [gkind _ e he, hplace]

theorem framed_nil : Framed [] := ⟨rfl, fun _ _ h => by simp at h⟩

theorem framed_frameEvents (mode : Level) (bytes : List Byte) : Framed (frameEvents mode bytes) := by
  refine ⟨by rw [frameEvents_length], fun k e he => ?_⟩
  obtain ⟨hlt, rfl⟩ := List.getElem?_eq_some_iff.mp he
  rw [frameEvents_length] at hlt
  match k, hlt with
  | 0, _ => rfl
  | 1, _ => rfl
  | 2, _ => rfl
  | 3, _ => rfl

theorem framed_columnEvents (payload : List Byte) (a : Nat) : Framed (columnEvents payload a) :=
  ((framed_frameEvents _ _).append (framed_frameEvents _ _)).append (framed_frameEvents _ _)

theorem framed_rowEvents (row : Nat) (payload : List Byte) : Framed (rowEvents row payload) :=
  (framed_columnEvents _ _).append (framed_columnEvents _ _)

theorem framed_xorEvents (x y : Byte) (i : Nat) (sprite : List Byte) (m : Memory) :
    Framed (xorEvents x y i sprite m) := by
  induction sprite generalizing i m with
  | nil => exact framed_nil
  | cons sb rest ih => exact (framed_rowEvents _ _).append (ih _ _)

theorem framed_clearEvents : Framed clearEvents := by
  unfold clearEvents
  induction List.range 64 with
  | nil => exact framed_nil
  | cons a rest ih => exact (framed_columnEvents _ _).append ih

theorem framed_configEvents : Framed configEvents :=
  ((((((framed_frameEvents _ _).append (framed_frameEvents _ _)).append (framed_frameEvents _ _)).append
    (framed_frameEvents _ _)).append (framed_frameEvents _ _)).append (framed_frameEvents _ _)).append
    (framed_frameEvents _ _)

/-- INIT is its reset pulse and then whole transactions. -/
theorem kind_of_initEvents {k : Nat} {e : Event} (he : initEvents[k]? = some e) : e.kind = initKind k := by
  have hframed : Framed (configEvents ++ clearEvents ++ frameEvents .low [Config.cmdDisplayOn]) :=
    (framed_configEvents.append framed_clearEvents).append (framed_frameEvents _ _)
  rw [initEvents, List.append_assoc, List.append_assoc, ← List.append_assoc configEvents] at he
  unfold initKind
  split
  · next hlt =>
    rw [List.getElem?_append_left hlt] at he
    match k, hlt with
    | 0, _ => cases he; rfl
    | 1, _ => cases he; rfl
    | 2, _ => cases he; rfl
  · next hge =>
    rw [List.getElem?_append_right (Nat.le_of_not_lt hge)] at he
    exact hframed.2 _ e he

theorem exists_getElem? {k : Nat} (h : k < es.length) : ∃ e, es[k]? = some e := ⟨_, List.getElem?_eq_getElem h⟩

/-- Settles O25: XOR's trace has 24 exchanges for each sprite byte, and its places give the kinds. -/
theorem xorStoppedByFailure : Obligations.XorStoppedByFailure := by
  unfold Obligations.XorStoppedByFailure
  intro s x y sprite k hk hlt
  obtain ⟨e, he⟩ := exists_getElem? ((xorEvents_length x y 0 sprite s.fb).symm ▸ hlt)
  obtain ⟨t, ht, ⟨-, -, -, hresult, -⟩, hfb, hkeymap⟩ := exec_display_stops (i := .xor x y sprite) hk he
  rw [(framed_xorEvents x y 0 sprite s.fb).2 k _ he] at hresult
  exact ⟨t, ht, hfb, hresult, hkeymap⟩

/-- Settles O30: the framebuffer reset comes after the last column, and in INIT before the last transaction. -/
theorem failedClearOrInitFramebuffer : Obligations.FailedClearOrInitFramebuffer := by
  unfold Obligations.FailedClearOrInitFramebuffer
  constructor
  · intro s k hk hlt
    obtain ⟨e, he⟩ := exists_getElem? (clearEvents_length.symm ▸ hlt)
    obtain ⟨t, ht, ⟨-, -, -, hresult, -⟩, hfb, -⟩ := exec_display_stops (i := .clear) hk he
    rw [framed_clearEvents.2 k _ he] at hresult
    exact ⟨t, ht, hfb, hresult⟩
  · intro s k hk hlt
    obtain ⟨e, he⟩ := exists_getElem? (initEvents_length.symm ▸ hlt)
    obtain ⟨t, ht, ⟨-, -, -, hresult, -⟩, hfb, -⟩ := exec_display_stops (i := .init) hk he
    rw [kind_of_initEvents he] at hresult
    exact ⟨t, ht, hfb, hresult⟩

/-- Settles O36: a row is two columns of three transactions with one payload, and stops as they do. -/
theorem rowIsRenderedAtBothColumns : Obligations.RowIsRenderedAtBothColumns := by
  unfold Obligations.RowIsRenderedAtBothColumns
  intro s row
  constructor
  · exact fun h => ⟨_, renderRow_ok row h, rfl, rfl⟩
  · intro k e hk he
    obtain ⟨o, hstop⟩ := renderRow_stops s row k e hk he
    rw [(framed_rowEvents _ _).2 k e he] at hstop
    exact ⟨_, hstop, rfl, rfl⟩

end Sys2Proof.Machine
end

section
/-! PROOF. The framebuffer byte by byte and pixel by pixel (spec/20_memory.md rules R51 to R56), and the display
operations that complete (spec/43_framebuffer_compositor_xor.md rules R190 to R195, spec/41_serial_command_sequencer.md
rule R150). -/

namespace Sys2Proof.Machine

/-! Memories by rows and bytes. -/

/-- At and above 256 a canonical memory lists nothing. -/
theorem Memory.read_of_ge {m : Memory} {lo a : Nat} (h : Memory.wfFrom lo m = true) (ha : 256 ≤ a) :
    Memory.read m a = Memory.unlisted := by
  induction m generalizing lo with
  | nil => rfl
  | cons c m ih =>
    simp only [Memory.wfFrom, Bool.and_eq_true, decide_eq_true_eq] at h
    obtain ⟨⟨⟨-, hlt⟩, -⟩, hrest⟩ := h
    rw [Memory.read, if_neg (by omega)]
    exact ih hrest

/-- Two canonical framebuffers with the same bytes are one. -/
theorem Memory.eq_of_fbRead {m n : Memory} (hm : Memory.wf m = true) (hn : Memory.wf n = true)
    (h : ∀ r < 32, ∀ b < 8, fbRead m r b = fbRead n r b) : m = n := by
  refine Memory.eq_of_read hm hn fun a => ?_
  by_cases ha : a < 256
  · have haddr : fbAddr (a / 8) (a % 8) = a := Nat.div_add_mod a 8
    have := h (a / 8) (by omega) (a % 8) (Nat.mod_lt a (by decide))
    rwa [fbRead, fbRead, haddr] at this
  · rw [Memory.read_of_ge hm (Nat.le_of_not_lt ha), Memory.read_of_ge hn (Nat.le_of_not_lt ha)]

/-- What compositing a sprite from its byte `i` on adds to a framebuffer byte. -/
def maskFrom (x y : Byte) (r b : Nat) : Nat → List Byte → Byte
  | _, [] => 0#8
  | i, sb :: rest => maskByte x (rowOf y i) sb r b ^^^ maskFrom x y r b (i + 1) rest

/-- A sprite is exclusive-ored into the framebuffer, byte by byte (R190). -/
theorem fbRead_compositeFrom {m : Memory} (hm : Memory.wf m = true) (x y : Byte) (i : Nat) (sprite : List Byte) (r : Nat)
    {b : Nat} (hb : b < 8) :
    fbRead (compositeFrom x y i sprite m) r b = fbRead m r b ^^^ maskFrom x y r b i sprite := by
  induction sprite generalizing i m with
  | nil => exact (BitVec.xor_zero).symm
  | cons sb rest ih =>
    rw [compositeFrom, ih (Memory.wf_compositeByte x sb hm (rowOf_lt y i)),
      fbRead_compositeByte x _ sb hm (rowOf_lt y i) hb, BitVec.xor_assoc]
    rfl

/-- The laws of XOR on the framebuffer (R191): it is its own inverse, and two of them commute. -/
theorem compositeFrom_compositeFrom {m : Memory} (hm : Memory.wf m = true) (x y : Byte) (sprite : List Byte) :
    compositeFrom x y 0 sprite (compositeFrom x y 0 sprite m) = m := by
  have hwf := Memory.wf_compositeFrom x y 0 sprite hm
  refine Memory.eq_of_fbRead (Memory.wf_compositeFrom x y 0 sprite hwf) hm fun r _ b hb => ?_
  rw [fbRead_compositeFrom hwf x y 0 sprite r hb, fbRead_compositeFrom hm x y 0 sprite r hb, BitVec.xor_assoc,
    BitVec.xor_self, BitVec.xor_zero]

theorem compositeFrom_comm {m : Memory} (hm : Memory.wf m = true) (x y x' y' : Byte) (p q : List Byte) :
    compositeFrom x' y' 0 q (compositeFrom x y 0 p m) = compositeFrom x y 0 p (compositeFrom x' y' 0 q m) := by
  have hp := Memory.wf_compositeFrom x y 0 p hm
  have hq := Memory.wf_compositeFrom x' y' 0 q hm
  refine Memory.eq_of_fbRead (Memory.wf_compositeFrom x' y' 0 q hp) (Memory.wf_compositeFrom x y 0 p hq)
    fun r _ b hb => ?_
  rw [fbRead_compositeFrom hp x' y' 0 q r hb, fbRead_compositeFrom hm x y 0 p r hb, fbRead_compositeFrom hq x y 0 p r hb,
    fbRead_compositeFrom hm x' y' 0 q r hb, BitVec.xor_assoc, BitVec.xor_assoc,
    BitVec.xor_comm (maskFrom x y r b 0 p)]

/-! Pixels (R52, R193). -/

section
variable (x sb : Byte) {px : Nat} (hpx : px < 64)
include hpx

/-- In the sprite's first byte the pixels at and after its column are lit by the bits from the most significant down. -/
theorem getLsbD_firstPiece (h : px / 8 = byteIndex x) :
    (firstPiece x sb).getLsbD (7 - px % 8) = spriteLights x sb px := by
  unfold byteIndex at h
  unfold firstPiece spriteLights colOffset
  rw [BitVec.getLsbD_ushiftRight]
  by_cases hcol : x.toNat % 8 ≤ px % 8
  · have hd : (px + 64 - x.toNat % 64) % 64 = px % 8 - x.toNat % 8 := by omega
    have hbit : x.toNat % 8 + (7 - px % 8) = 7 - (px % 8 - x.toNat % 8) := by omega
    have hlt : px % 8 - x.toNat % 8 < 8 := by omega
    rw [hd, hbit, decide_eq_true hlt, Bool.true_and]
  · have hd : ¬(px + 64 - x.toNat % 64) % 64 < 8 := by omega
    rw [BitVec.getLsbD_of_ge _ _ (by omega), decide_eq_false hd, Bool.false_and]

/-- In its second byte the pixels before its column are lit by the bits that are left. -/
theorem getLsbD_secondPiece (h : px / 8 = nextByteIndex x) :
    (secondPiece x sb).getLsbD (7 - px % 8) = spriteLights x sb px := by
  unfold nextByteIndex byteIndex at h
  unfold secondPiece spriteLights colOffset
  rw [BitVec.getLsbD_shiftLeft]
  by_cases hcol : px % 8 < x.toNat % 8
  · have hd : (px + 64 - x.toNat % 64) % 64 = 8 + px % 8 - x.toNat % 8 := by omega
    have hbit : 7 - px % 8 - (8 - x.toNat % 8) = 7 - (8 + px % 8 - x.toNat % 8) := by omega
    have hlt : 8 + px % 8 - x.toNat % 8 < 8 := by omega
    have hge : ¬7 - px % 8 < 8 - x.toNat % 8 := by omega
    have h8 : 7 - px % 8 < 8 := by omega
    rw [hd, hbit, decide_eq_true hlt, decide_eq_false hge, decide_eq_true h8]
    rfl
  · have hd : ¬(px + 64 - x.toNat % 64) % 64 < 8 := by omega
    have hlt : 7 - px % 8 < 8 - x.toNat % 8 := by omega
    rw [decide_eq_false hd, decide_eq_true hlt]
    simp

/-- No pixel of the other bytes of a row is lit; at an aligned column that is every byte but one. -/
theorem spriteLights_elsewhere (h : px / 8 ≠ byteIndex x) (h' : colOffset x = 0 ∨ px / 8 ≠ nextByteIndex x) :
    spriteLights x sb px = false := by
  unfold nextByteIndex byteIndex colOffset at *
  have hd : ¬(px + 64 - x.toNat % 64) % 64 < 8 := by omega
  unfold spriteLights
  rw [decide_eq_false hd, Bool.false_and]

/-- The pixels of a mask are those the sprite byte lights in its row. -/
theorem getLsbD_maskByte (row r : Nat) :
    (maskByte x row sb r (px / 8)).getLsbD (7 - px % 8) = (decide (row = r) && spriteLights x sb px) := by
  unfold maskByte
  by_cases hrow : r = row
  · rw [if_pos hrow, decide_eq_true hrow.symm, Bool.true_and]
    by_cases h0 : colOffset x = 0
    · rw [if_pos h0]
      by_cases hb : px / 8 = byteIndex x
      · rw [if_pos hb, ← getLsbD_firstPiece x sb hpx hb, firstPiece, h0]
        simp
      · rw [if_neg hb, spriteLights_elsewhere x sb hpx hb (.inl h0)]
        simp
    · rw [if_neg h0]
      by_cases hb : px / 8 = byteIndex x
      · rw [if_pos hb, getLsbD_firstPiece x sb hpx hb]
      · rw [if_neg hb]
        by_cases hn : px / 8 = nextByteIndex x
        · rw [if_pos hn, getLsbD_secondPiece x sb hpx hn]
        · rw [if_neg hn, spriteLights_elsewhere x sb hpx hb (.inr hn)]
          simp
  · rw [if_neg hrow, decide_eq_false (Ne.symm hrow)]
    simp

theorem getLsbD_maskFrom (y : Byte) (r i : Nat) (sprite : List Byte) :
    (maskFrom x y r (px / 8) i sprite).getLsbD (7 - px % 8) = spriteToggles x y px r i sprite := by
  induction sprite generalizing i with
  | nil => simp [maskFrom, spriteToggles]
  | cons sb rest ih => rw [maskFrom, BitVec.getLsbD_xor, getLsbD_maskByte x sb hpx, ih, spriteToggles]

end

/-- Settles O22: the sprite's mask, bit by bit, is what the sprite lights. -/
theorem spriteTogglesItsPixels : Obligations.SpriteTogglesItsPixels := by
  unfold Obligations.SpriteTogglesItsPixels
  intro m x y sprite px r hm hpx _
  unfold fbPixel
  rw [fbRead_compositeFrom hm x y 0 sprite r (by omega), BitVec.getLsbD_xor, getLsbD_maskFrom x hpx]

/-! The operations that complete. -/

/-- XOR with every exchange successful (R190). -/
theorem exec_xor_ok {s : State} (x y : Byte) (sprite : List Byte) (h : s.AllSucceed (24 * sprite.length)) :
    ∃ t, exec (.xor x y sprite) s = .next t ∧ Responded s t (xorEvents x y 0 sprite s.fb) 0#4 1#5 ∧
      t.fb = compositeFrom x y 0 sprite s.fb ∧ t.keymap = s.keymap ∧ t.out = s.out.afterUnits sprite.length := by
  have hloop := xorFrom_ok x y 0 sprite (h.load (loadXor s.operands x y sprite))
  refine ⟨_, rfl, ?_⟩
  rw [andThen_of_ok hloop]
  exact ⟨Responded.of_upto s _ _ _ _ statusOk xorResult, rfl, rfl, rfl⟩

/-- CLEAR with every exchange successful (R195). -/
theorem exec_clear_ok {s : State} (h : s.AllSucceed 768) :
    ∃ t, exec .clear s = .next t ∧ Responded s t clearEvents 0#4 0#5 ∧ t.fb = [] ∧ t.keymap = s.keymap ∧
      t.out = s.out.afterFrame .high := by
  have hbody := clearBody_ok (h.load (loadOp s.operands 0x01#8))
  refine ⟨_, rfl, ?_⟩
  rw [andThen_of_ok hbody]
  exact ⟨Responded.of_upto s _ clearEvents _ [] statusOk valueNone, rfl, rfl, rfl⟩

/-- The latches that the reset pulse leaves (R146). -/
def Latches.afterPulse (o : Latches) : Latches := { o with rst := .high }

theorem initBody_ok {s : State} (h : s.AllSucceed 803) :
    initBody s = (.ok valueNone, (s.upto initEvents (s.out.afterPulse.afterFrame .low)).withFb []) := by
  have hpulse : resetPulse s = (.ok (), s.upto pulseEvents s.out.afterPulse) := resetPulse_ok (h.mono (by decide))
  have hconfig : configBody (s.upto pulseEvents s.out.afterPulse) =
      (.ok (), s.upto (pulseEvents ++ configEvents) (s.out.afterPulse.afterFrame .low)) := by
    rw [configBody_ok (h.upto (by simp) _)]
    simp only [State.shown, State.upto_upto, State.upto_out]
  have hclear : clearBody (s.upto (pulseEvents ++ configEvents) (s.out.afterPulse.afterFrame .low)) =
      (.ok (), (s.upto (pulseEvents ++ configEvents ++ clearEvents) (s.out.afterPulse.afterFrame .high)).withFb []) := by
    have h768 : (s.upto (pulseEvents ++ configEvents) (s.out.afterPulse.afterFrame .low)).AllSucceed 768 :=
      h.upto (by simp) _
    rw [clearBody_ok h768]
    simp only [State.shown, State.upto_upto, State.upto_out]
    rfl
  have hon : ((s.upto (pulseEvents ++ configEvents ++ clearEvents) (s.out.afterPulse.afterFrame .high)).withFb
      []).AllSucceed 4 := State.AllSucceed.withFb (h.upto (by simp) _) []
  unfold initBody
  rw [andThen_of_ok hpulse, andThen_of_ok hconfig, andThen_of_ok hclear, andThen_of_ok (simpleCmd_ok _ hon)]
  simp only [State.shown, State.upto_withFb, State.upto_upto, State.withFb_out, State.upto_out]
  rfl

/-- INIT with every exchange successful (R150). -/
theorem exec_init_ok {s : State} (h : s.AllSucceed 803) :
    ∃ t, exec .init s = .next t ∧ Responded s t initEvents 0#4 0#5 ∧ t.fb = [] ∧ t.keymap = s.keymap ∧
      t.out = s.out.afterPulse.afterFrame .low := by
  have hbody := initBody_ok (h.load (loadOp s.operands 0x00#8))
  refine ⟨_, rfl, ?_⟩
  rw [hbody]
  exact ⟨Responded.of_upto s _ initEvents _ [] statusOk valueNone, rfl, rfl, rfl⟩

/-- Settles O23: the loop's law, and the latches that whole transactions of data leave. -/
theorem xorCompletes : Obligations.XorCompletes := by
  unfold Obligations.XorCompletes
  intro s x y sprite h
  obtain ⟨t, ht, hresp, hfb, hkeymap, hout⟩ := exec_xor_ok x y sprite h
  refine ⟨t, ht, hresp, hfb, hkeymap, hout.trans ?_⟩
  unfold Latches.afterUnits
  simp only [List.length_eq_zero_iff]
  rfl

/-- Settles O28: the body's law, and an empty framebuffer list reads zero everywhere. -/
theorem clearCompletes : Obligations.ClearCompletes := by
  unfold Obligations.ClearCompletes
  intro s h
  obtain ⟨t, ht, hresp, hfb, hkeymap, hout⟩ := exec_clear_ok h
  exact ⟨t, ht, hresp, fun r _ b _ => by rw [State.fbByte, hfb]; rfl, hfb, hkeymap, hout⟩

/-- Settles O29: the laws of the four parts one after another. -/
theorem initCompletes : Obligations.InitCompletes := by
  unfold Obligations.InitCompletes
  intro s h
  obtain ⟨t, ht, hresp, hfb, hkeymap, hout⟩ := exec_init_ok h
  exact ⟨t, ht, hresp, fun r _ b _ => by rw [State.fbByte, hfb]; rfl, hfb, hkeymap, hout⟩

/-- After an operation that left `events` the rest of the answers is still to come. -/
theorem Responded.allSucceed {s t : State} {events : List Event} {status : Nibble} {value : BitVec 5} {n m : Nat}
    (h : Responded s t events status value) (hs : s.AllSucceed n) (hm : events.length + m ≤ n) : t.AllSucceed m := by
  obtain ⟨hlog, henv, -⟩ := h
  intro k hk
  rw [State.answerAt_of_ran henv hlog]
  exact hs _ (by omega)

theorem Responded.log_length {s t : State} {events : List Event} {status : Nibble} {value : BitVec 5}
    (h : Responded s t events status value) : t.log.length = s.log.length + events.length := by
  obtain ⟨hlog, -⟩ := h
  rw [hlog, List.length_append, List.length_reverse, Nat.add_comm]

/-- Two successful XORs one after another, with the framebuffer and the number of exchanges they leave. -/
theorem exec_xor_xor_ok {s : State} (x y x' y' : Byte) (p q : List Byte)
    (h : s.AllSucceed (24 * p.length + 24 * q.length)) :
    ∃ t u, exec (.xor x y p) s = .next t ∧ exec (.xor x' y' q) t = .next u ∧
      u.fb = compositeFrom x' y' 0 q (compositeFrom x y 0 p s.fb) ∧
      u.log.length = s.log.length + (24 * p.length + 24 * q.length) := by
  obtain ⟨t, ht, htresp, htfb, -⟩ := exec_xor_ok x y p (h.mono (Nat.le_add_right _ _))
  obtain ⟨u, hu, huresp, hufb, -⟩ := exec_xor_ok x' y' q (htresp.allSucceed h (by rw [xorEvents_length]))
  refine ⟨t, u, ht, hu, by rw [hufb, htfb], ?_⟩
  rw [huresp.log_length, htresp.log_length, xorEvents_length, xorEvents_length, Nat.add_assoc]

/-- Settles O26: the second sprite meets the framebuffer with the first and takes it out again. -/
theorem xorIsItsOwnInverse : Obligations.XorIsItsOwnInverse := by
  unfold Obligations.XorIsItsOwnInverse
  intro s x y sprite hwf h
  have hcount : 24 * sprite.length + 24 * sprite.length = 48 * sprite.length := by omega
  obtain ⟨t, u, ht, hu, hfb, hlog⟩ := exec_xor_xor_ok x y x y sprite sprite (hcount.symm ▸ h)
  exact ⟨t, u, ht, hu, hfb.trans (compositeFrom_compositeFrom hwf x y sprite), by rw [hlog, hcount]⟩

/-- Settles O27: the two sprites' masks are exclusive-ored in either order. -/
theorem xorsCommute : Obligations.XorsCommute := by
  unfold Obligations.XorsCommute
  intro s x y x' y' p q hwf h
  obtain ⟨t, u, ht, hu, hfb, -⟩ := exec_xor_xor_ok x y x' y' p q h
  obtain ⟨t', u', ht', hu', hfb', -⟩ := exec_xor_xor_ok x' y' x y q p (by rwa [Nat.add_comm])
  exact ⟨t, u, t', u', ht, hu, ht', hu', by rw [hfb, hfb', compositeFrom_comm hwf]⟩

/-! What the display operations leave unchanged. -/

/-- Lines of a kind that the operation cannot report are not written by it; the columns are four such lines. -/
theorem HostRun.cols {i : Instr} {s t : State} {events : List Event} (h : HostRun i s events t)
    (hi : ¬MayReport i .pinWrite) : t.out.cols = s.out.cols :=
  Quad.eq_of_get fun c => h.untouched (.col c) hi

/-- Settles O32: neither operation can report a failed column write, nor CLEAR a failed reset-line write, so neither
writes those lines. -/
theorem clearAndInitFrame : Obligations.ClearAndInitFrame := by
  unfold Obligations.ClearAndInitFrame
  intro i s t hi ht
  rcases hi with rfl | rfl
  · obtain ⟨events, h⟩ := hostRun_of_exec rfl ht
    exact ⟨h.keymap fun _ => Instr.noConfusion, h.cols (by decide), h.cmdIn, fun _ => h.untouched .rst (by decide)⟩
  · obtain ⟨events, h⟩ := hostRun_of_exec rfl ht
    exact ⟨h.keymap fun _ => Instr.noConfusion, h.cols (by decide), h.cmdIn, fun hclear => Instr.noConfusion hclear⟩

/-- Whatever fails, XOR has composited some first bytes of its sprite (D26). -/
theorem exec_xor_fb {s t : State} {x y : Byte} {sprite : List Byte} (ht : exec (.xor x y sprite) s = .next t) :
    ∃ n, t.fb = compositeFrom x y 0 (sprite.take n) s.fb := by
  rcases s.allSucceed_or_firstFailureAt (24 * sprite.length) with hok | ⟨k, hk, hfail⟩
  · obtain ⟨t', ht', -, hfb, -⟩ := exec_xor_ok x y sprite hok
    cases ht.symm.trans ht'
    exact ⟨sprite.length, by rw [hfb, List.take_length]⟩
  · obtain ⟨e, he⟩ := exists_getElem? ((xorEvents_length x y 0 sprite s.fb).symm ▸ hk)
    obtain ⟨t', ht', -, hfb, -⟩ := exec_display_stops (i := .xor x y sprite) hfail he
    cases ht.symm.trans ht'
    exact ⟨k / 24 + 1, hfb⟩

/-- A byte that no sprite byte addresses is not in the mask. -/
theorem maskFrom_eq_zero {x y : Byte} {r b i : Nat} {sprite : List Byte}
    (h : ∀ j < sprite.length, ¬(r = rowOf y (i + j) ∧ (b = byteIndex x ∨ colOffset x ≠ 0 ∧ b = nextByteIndex x))) :
    maskFrom x y r b i sprite = 0#8 := by
  induction sprite generalizing i with
  | nil => rfl
  | cons sb rest ih =>
    have hrest : maskFrom x y r b (i + 1) rest = 0#8 := ih fun j hj => by
      have hnext := h (j + 1) (Nat.succ_lt_succ hj)
      rwa [← Nat.add_assoc, Nat.add_right_comm] at hnext
    have hthis : maskByte x (rowOf y i) sb r b = 0#8 := by
      have hnot := h 0 (Nat.succ_pos _)
      rw [Nat.add_zero] at hnot
      unfold maskByte
      split_ifs <;> simp_all
    rw [maskFrom, hthis, hrest, BitVec.xor_zero]

/-- Settles O24: some first bytes of the sprite have been composited, and of them no mask reaches another byte; the rest
is untouched as no exchange of XOR concerns it. -/
theorem xorFrame : Obligations.XorFrame := by
  unfold Obligations.XorFrame
  intro s t x y sprite hwf ht
  obtain ⟨events, h⟩ := hostRun_of_exec rfl ht
  refine ⟨fun r _ b hb hout => ?_, h.keymap fun _ => Instr.noConfusion, h.cols (by simp [MayReport, mayReport]),
    h.untouched .rst (by simp [MayReport, mayReport, Line.kind]), h.cmdIn⟩
  obtain ⟨n, hfb⟩ := exec_xor_fb ht
  have hmask : maskFrom x y r b 0 (sprite.take n) = 0#8 := maskFrom_eq_zero fun j hj => by
    rw [Nat.zero_add]
    exact hout j (Nat.lt_of_lt_of_le hj (List.length_take_le' n sprite))
  rw [State.fbByte, hfb, fbRead_compositeFrom hwf x y 0 _ r hb, hmask, BitVec.xor_zero]
  rfl

end Sys2Proof.Machine
end

section
/-! PROOF. The panel transactions as instructions (spec/41_serial_command_sequencer.md rules R140 to R144), and the
encoding of a row (spec/42_column_encoder_bitdouble.md rules R171 to R175). -/

namespace Sys2Proof.Machine

/-! Panel transactions. -/

/-- Every panel transaction is one framed transaction of its encoding at its mode-select level (R91 to R93). -/
theorem exec_panel {i : Instr} {mode : Level} (hi : i.interface = .panelWire mode) (s : State) :
    exec i s = .next (wireStep (transaction mode (encode i)) s) := by
  cases i <;> cases hi <;> rfl

/-- After a whole transaction only SEQ may move (log 21). -/
theorem State.endFrame_eq (s : State) (r : Yield Unit) : ∃ q, s.endFrame r = { s with seq := q } := by
  unfold State.endFrame
  split
  · exact ⟨_, rfl⟩
  · exact ⟨s.seq, rfl⟩

theorem State.endFrame_of_frameStart {s : State} {op : Op} {f : FramePos} (h : s.seq = .busy op (frameStart f))
    (r : Yield Unit) : (s.endFrame r).seq = .busy op (f.afterYield r) := by
  unfold State.endFrame
  rw [h]
  rfl

theorem State.endFrame_of_idle {s : State} (h : s.seq = .idle) (r : Yield Unit) : s.endFrame r = s := by
  unfold State.endFrame
  rw [h]

section
variable {s : State} (mode : Level) (bytes : List Byte)

/-- A transaction that completes, run as one instruction. -/
theorem wireStep_transacted (h : s.AllSucceed 4) :
    Transacted s (wireStep (transaction mode bytes) s) mode bytes := by
  unfold wireStep
  rw [transaction_ok mode bytes h]
  obtain ⟨q, hq⟩ := (s.shown (frameEvents mode bytes) mode).endFrame_eq (.ok ())
  refine ⟨by rw [hq]; rfl, by rw [hq]; rfl, by rw [hq]; rfl, by rw [hq]; rfl, by rw [hq]; rfl, by rw [hq]; rfl,
    by rw [hq]; rfl, by rw [hq]; rfl, by rw [hq]; rfl, fun op f hs => ?_, fun hs => ?_⟩
  · exact State.endFrame_of_frameStart (s := s.shown (frameEvents mode bytes) mode) hs (.ok ())
  · rw [State.endFrame_of_idle (s := s.shown (frameEvents mode bytes) mode) hs]
    exact hs

theorem exec_panel_transacted {i : Instr} (hi : i.interface = .panelWire mode) (h : s.AllSucceed 4) :
    ∃ t, exec i s = .next t ∧ Transacted s t mode (encode i) :=
  ⟨_, exec_panel hi s, wireStep_transacted mode (encode i) h⟩

end

/-- Settles O38: each of the four is a transaction of its one byte. -/
theorem simpleCommandsComplete : Obligations.SimpleCommandsComplete := by
  unfold Obligations.SimpleCommandsComplete
  intro s h
  refine ⟨fun c => ?_, exec_panel_transacted _ rfl h, exec_panel_transacted _ rfl h,
    fun n => exec_panel_transacted _ rfl h, fun n => exec_panel_transacted _ rfl h⟩
  rw [simpleCmd_ok c h]
  exact ⟨rfl, rfl, rfl⟩

/-- Settles O39: each of the six is a transaction of its two bytes. -/
theorem parameterizedCommandsComplete : Obligations.ParameterizedCommandsComplete := by
  unfold Obligations.ParameterizedCommandsComplete
  intro s h
  refine ⟨fun c p => ?_, exec_panel_transacted _ rfl h, exec_panel_transacted _ rfl h, exec_panel_transacted _ rfl h,
    exec_panel_transacted _ rfl h, exec_panel_transacted _ rfl h, exec_panel_transacted _ rfl h⟩
  rw [paramCmd_ok c p h]
  exact ⟨rfl, rfl, rfl⟩

/-- Settles O40: pixel data is a transaction of its payload. -/
theorem dataTransactionCompletes : Obligations.DataTransactionCompletes := by
  unfold Obligations.DataTransactionCompletes
  exact fun s payload _ h => exec_panel_transacted .high rfl h

/-- No exchange of a transaction writes the reset line. -/
theorem transaction_rst (mode : Level) (bytes : List Byte) :
    Always (fun s t => t.out.rst = s.out.rst) (transaction mode bytes) := by
  refine Always.transaction (R := fun s t => t.out.rst = s.out.rst) (fun h g => g.trans h) (fun v s => ?_)
    (fun v s => ?_) (fun bytes s => ?_) mode bytes
  · rcases pinWrite_cases .cs v s with h | h <;> rw [h] <;> rfl
  · rcases pinWrite_cases .dc v s with h | h <;> rw [h] <;> rfl
  · rcases busWrite_cases bytes s with h | h <;> rw [h] <;> rfl

/-- The kind a transaction yields is that of the first failure's place (R140). -/
theorem transaction_err {s : State} {k : Nat} (mode : Level) (bytes : List Byte) (hk : s.FirstFailureAt k)
    (hlt : k < 4) : (transaction mode bytes s).1 = .err (frameKind k) := by
  obtain ⟨e, he⟩ := exists_getElem? (es := frameEvents mode bytes) hlt
  obtain ⟨o, hstop⟩ := transaction_stops mode bytes s k e hk he
  rw [hstop, (framed_frameEvents mode bytes).2 k e he, Nat.mod_eq_of_lt hlt]

/-- Settles O41: a transaction's exchanges concern chip-select and mode-select alone, and the sequencer goes on by what
it yielded. -/
theorem panelTransactionFrame : Obligations.PanelTransactionFrame := by
  unfold Obligations.PanelTransactionFrame
  intro i mode s t hi ht
  cases ht.symm.trans (exec_panel hi s)
  obtain ⟨-, -, -, hkeymap, hoperands, hresult, hseq, hcmd, hresponses⟩ := transaction_exchanged mode (encode i) s
  obtain ⟨hfb, hcols⟩ := transaction_displaySide mode (encode i) s
  have hrst := transaction_rst mode (encode i) s
  unfold wireStep
  obtain ⟨q, hq⟩ := (transaction mode (encode i) s).2.endFrame_eq (transaction mode (encode i) s).1
  refine ⟨by rw [hq]; exact hfb, by rw [hq]; exact hkeymap, by rw [hq]; exact hoperands, by rw [hq]; exact hresult,
    by rw [hq]; exact hresponses, by rw [hq]; exact hcmd, by rw [hq]; exact hrst, by rw [hq]; exact hcols,
    fun op f k hs hlt hk => ?_⟩
  rw [State.endFrame_of_frameStart (hseq.trans hs), transaction_err mode (encode i) hk hlt]
  rfl

/-! The encoding of a row. -/

theorem getLsbD_dbl (n : Nibble) {k : Nat} (hk : k < 8) : (dbl n).getLsbD k = n.getLsbD (k / 2) := by
  unfold dbl
  iterate 7 rw [BitVec.getLsbD_append]
  interval_cases k <;> simp

/-- Payload byte `q div 8` comes from row byte `q div 16`: two payload bytes for each (R173, R174). -/
theorem getElem?_encodeRow (m : Memory) (r : Nat) {j : Nat} (hj : j < 16) :
    (encodeRow m r)[j]? =
      some (dbl ((rev8 (fbRead m r (j / 2))).extractLsb' (4 * (j % 2)) 4)) := by
  interval_cases j <;> rfl

/-- A pixel is doubled vertically: payload positions `2p` and `2p + 1` show it (R175 a). -/
theorem getLsbD_encodeRow (m : Memory) (r : Nat) {q : Nat} (hq : q < 128) :
    ((encodeRow m r)[q / 8]?.getD 0#8).getLsbD (q % 8) = fbPixel m (q / 2) r := by
  have hbyte : q / 2 / 8 = q / 8 / 2 := by omega
  have hbit : 4 * (q / 8 % 2) + q % 8 / 2 = q / 2 % 8 := by omega
  have hnibble : q % 8 / 2 < 4 := by omega
  rw [getElem?_encodeRow m r (by omega), Option.getD_some, getLsbD_dbl _ (Nat.mod_lt q (by decide)),
    BitVec.getLsbD_extractLsb', decide_eq_true hnibble, Bool.true_and, hbit,
    getLsbD_rev8 _ (Nat.mod_lt _ (by decide)), fbPixel, hbyte]

/-- Rows with the same pixels are the same bytes. -/
theorem fbRead_eq_of_fbPixel {m n : Memory} {r r' : Nat} (h : ∀ px < 64, fbPixel m px r = fbPixel n px r') :
    ∀ b < 8, fbRead m r b = fbRead n r' b := by
  intro b hb
  refine BitVec.eq_of_getLsbD_eq fun k hk => ?_
  have hpx := h (8 * b + (7 - k)) (by omega)
  have hbyte : (8 * b + (7 - k)) / 8 = b := by omega
  have hbit : 7 - (8 * b + (7 - k)) % 8 = k := by omega
  rwa [fbPixel, fbPixel, hbyte, hbit] at hpx

theorem encodeRow_congr {m n : Memory} {r r' : Nat} (h : ∀ b < 8, fbRead m r b = fbRead n r' b) :
    encodeRow m r = encodeRow n r' := by
  refine List.ext_getElem? fun j => ?_
  by_cases hj : j < 16
  · rw [getElem?_encodeRow m r hj, getElem?_encodeRow n r' hj, h (j / 2) (by omega)]
  · rw [List.getElem?_eq_none (by rw [encodeRow_length]; omega), List.getElem?_eq_none (by rw [encodeRow_length]; omega)]

theorem rev8_xor (v w : Byte) : rev8 (v ^^^ w) = rev8 v ^^^ rev8 w := by
  refine BitVec.eq_of_getLsbD_eq fun k hk => ?_
  rw [BitVec.getLsbD_xor, getLsbD_rev8 _ hk, getLsbD_rev8 _ hk, getLsbD_rev8 _ hk, BitVec.getLsbD_xor]

theorem dbl_xor (a b : Nibble) : dbl (a ^^^ b) = dbl a ^^^ dbl b := by
  refine BitVec.eq_of_getLsbD_eq fun k hk => ?_
  rw [BitVec.getLsbD_xor, getLsbD_dbl _ hk, getLsbD_dbl _ hk, getLsbD_dbl _ hk, BitVec.getLsbD_xor]

/-- Each step of the encoding is linear over exclusive-or (R175 b). -/
theorem encodeRow_xor {m n p : Memory} {r : Nat} (h : ∀ b < 8, fbRead p r b = fbRead m r b ^^^ fbRead n r b) :
    encodeRow p r = List.zipWith (fun a b => a ^^^ b) (encodeRow m r) (encodeRow n r) := by
  refine List.ext_getElem? fun j => ?_
  by_cases hj : j < 16
  · rw [List.getElem?_zipWith, getElem?_encodeRow p r hj, getElem?_encodeRow m r hj, getElem?_encodeRow n r hj,
      h (j / 2) (by omega), rev8_xor, BitVec.extractLsb'_xor, dbl_xor]
  · rw [List.getElem?_eq_none (by rw [encodeRow_length]; omega),
      List.getElem?_eq_none (by rw [List.length_zipWith, encodeRow_length, encodeRow_length]; omega)]

theorem encodeRow_nil (r : Nat) : encodeRow [] r = zeroPayload := by
  have hzero : encodeRow [] 0 = zeroPayload := by decide
  exact (encodeRow_congr fun _ _ => rfl).trans hzero

/-- Settles O35: the payload position law, from which the injectivity follows, and the two bytes for each row byte, from
which the rest does. -/
theorem rowEncodingProperties : Obligations.RowEncodingProperties := by
  unfold Obligations.RowEncodingProperties
  refine ⟨fun m r q hq => getLsbD_encodeRow m r hq, fun m n p r h => encodeRow_xor h, fun m r h => ?_,
    fun m n r r' h => ?_, fun m r => ⟨encodeRow_length m r, fun v hv => ?_⟩⟩
  · exact (encodeRow_congr (n := []) (r' := r) h).trans (encodeRow_nil r)
  · refine fbRead_eq_of_fbPixel fun px hpx => ?_
    have hpos : 2 * px / 2 = px := Nat.mul_div_cancel_left px (by decide)
    have hm := getLsbD_encodeRow m r (q := 2 * px) (by omega)
    have hn := getLsbD_encodeRow n r' (q := 2 * px) (by omega)
    rw [hpos] at hm hn
    rw [← hm, ← hn, h]
  · obtain ⟨j, hj, rfl⟩ := List.mem_iff_getElem.mp hv
    rw [encodeRow_length] at hj
    refine ⟨_, Option.some_inj.mp ((List.getElem?_eq_getElem _).symm.trans (getElem?_encodeRow m r hj))⟩

end Sys2Proof.Machine
end

section
/-! PROOF. The keypad operations (spec/40_keypad_matrix_scanner.md rules R110 to R122): the trace that the answers to come
make of a scan, what it resolves, and the restoration after it. -/

namespace Sys2Proof.Machine

variable {s : State}

/-! The four row samples (R94). -/

theorem getLsbD_rowsWith (rows : BitVec 4) (r q : Line4) (v : Level) :
    (rowsWith rows r v).getLsbD q.val = (rows.getLsbD q.val || (decide (q = r) && decide (v = .high))) := by
  unfold rowsWith
  rw [BitVec.getLsbD_or]
  cases v with
  | low => simp [Level.bit]
  | high =>
    have hpow : BitVec.ofNat 4 (Level.high.bit * 2 ^ r.val) = BitVec.twoPow 4 r.val := by
      fin_cases r <;> rfl
    rw [hpow, BitVec.getLsbD_twoPow]
    simp [Fin.ext_iff, eq_comm]

theorem getLsbD_sampleAt (s : State) (k : Nat) (q : Line4) :
    (s.sampleAt k).getLsbD q.val = decide (s.levelAt (k + q.val) = .high) := by
  unfold State.sampleAt
  iterate 4 rw [getLsbD_rowsWith]
  fin_cases q <;> simp

/-- A sample is zero when no row reads high. -/
theorem sampleAt_eq_zero_iff (s : State) (k : Nat) :
    s.sampleAt k = 0b0000#4 ↔ ∀ q : Line4, s.levelAt (k + q.val) ≠ .high := by
  constructor
  · intro h q hq
    have hbit := getLsbD_sampleAt s k q
    rw [h, hq] at hbit
    simp at hbit
  · intro h
    refine BitVec.eq_of_getLsbD_eq fun i hi => ?_
    have hbit := getLsbD_sampleAt s k ⟨i, hi⟩
    rw [hbit, decide_eq_false (h ⟨i, hi⟩)]
    simp

/-! The reads (R112). -/

/-- Reading rows moves no latch. -/
theorem readRows_out (s : State) : (readRows s).2.out = s.out := by
  refine Always.readRows (R := fun s t => t.out = s.out) (fun _ => rfl) (fun h g => g.trans h) (fun r s => ?_) s
  rcases pinRead_cases r s with ⟨v, h⟩ | h <;> rw [h] <;> rfl

theorem pinRead_first_ok (r : Line4) (h : s.AllSucceed 1) :
    pinRead r s = (.ok (s.levelAt 0), s.upto [.read r (s.levelAt 0)] s.out) := pinRead_ok r (h 0 (by decide))

theorem readRows_stops (s : State) : Stops readRows s (readEvents s 0) := by
  have h := (pinRead_stops s 0).andThen (q := fun v => readRowsFrom [1, 2, 3] (rowsWith 0#4 0 v)) (pinRead_first_ok 0) <|
    (pinRead_stops _ 1).andThen (q := fun v => readRowsFrom [2, 3] (rowsWith _ 1 v)) (pinRead_first_ok 1) <|
    (pinRead_stops _ 2).andThen (q := fun v => readRowsFrom [3] (rowsWith _ 2 v)) (pinRead_first_ok 2) <|
    (pinRead_stops _ 3).andThen_nothing (q := fun v => readRowsFrom [] (rowsWith _ 3 v)) (pinRead_first_ok 3)
  change Stops (andThen (pinRead 0) fun v => readRowsFrom [1, 2, 3] (rowsWith 0#4 0 v)) s (readEvents s 0)
  simpa [readEvents] using h

/-! The scan (R116): its trace and its key, as the answers from exchange `k` on make them. -/

/-- Steps 2a to 2c of column `c`, begun `k` exchanges from now. -/
def sampleEvents (s : State) (k : Nat) (c : Line4) : List Event :=
  [.wrote (.col c) .high, .waited 500] ++ readEvents s (k + 2)

/-- Step 2 of the scan over the columns still to scan: it ends with the column whose sample is one-hot. -/
def scanTrace (s : State) : Nat → List Line4 → List Event
  | _, [] => []
  | k, c :: rest =>
    sampleEvents s k c ++
      match decodeOneHot (s.sampleAt (k + 2)) with
      | some _ => []
      | none => [.wrote (.col c) .low] ++ scanTrace s (k + 7) rest

/-- The key of the first column whose sample is one-hot. -/
def scanKey (s : State) : Nat → List Line4 → Option Nibble
  | _, [] => none
  | k, c :: rest =>
    match decodeOneHot (s.sampleAt (k + 2)) with
    | some r => some (Keymap.entry s.keymap r c)
    | none => scanKey s (k + 7) rest

section
variable (es : List Event) (o : Latches)

@[simp] theorem sampleEvents_upto (k : Nat) (c : Line4) :
    sampleEvents (s.upto es o) k c = sampleEvents s (es.length + k) c := by
  simp only [sampleEvents, readEvents_upto, Nat.add_assoc]

@[simp] theorem scanTrace_upto (k : Nat) (l : List Line4) :
    scanTrace (s.upto es o) k l = scanTrace s (es.length + k) l := by
  induction l generalizing k with
  | nil => rfl
  | cons c rest ih => simp only [scanTrace, sampleEvents_upto, State.sampleAt_upto, ih, Nat.add_assoc]

@[simp] theorem scanKey_upto (k : Nat) (l : List Line4) :
    scanKey (s.upto es o) k l = scanKey s (es.length + k) l := by
  induction l generalizing k with
  | nil => rfl
  | cons c rest ih => simp only [scanKey, State.sampleAt_upto, State.upto_keymap, ih, Nat.add_assoc]

end

@[simp] theorem sampleEvents_length (k : Nat) (c : Line4) : (sampleEvents s k c).length = 6 := rfl

/-- Column `c` of the scan, from its energizing on, when its sample is `none` or `some`. -/
theorem scanTrace_of_hit {k : Nat} {c r : Line4} (rest : List Line4) (h : decodeOneHot (s.sampleAt (k + 2)) = some r) :
    scanTrace s k (c :: rest) = sampleEvents s k c ∧ scanKey s k (c :: rest) = some (Keymap.entry s.keymap r c) := by
  simp [scanTrace, scanKey, h]

theorem scanTrace_of_miss {k : Nat} {c : Line4} (rest : List Line4) (h : decodeOneHot (s.sampleAt (k + 2)) = none) :
    scanTrace s k (c :: rest) = sampleEvents s k c ++ ([.wrote (.col c) .low] ++ scanTrace s (k + 7) rest) ∧
      scanKey s k (c :: rest) = scanKey s (k + 7) rest := by
  simp [scanTrace, scanKey, h]

theorem scanColumns_ok (l : List Line4) (s : State) (h : s.AllSucceed (scanTrace s 0 l).length) :
    ∃ q, scanColumns l s = (.ok (scanKey s 0 l), s.upto (scanTrace s 0 l) (s.out.withCols q)) := by
  induction l generalizing s with
  | nil => exact ⟨s.out.cols, rfl⟩
  | cons c rest ih =>
    cases hc : decodeOneHot (s.sampleAt 2) with
    | some r =>
      obtain ⟨htrace, hkey⟩ := scanTrace_of_hit (k := 0) (c := c) rest hc
      rw [htrace] at h ⊢
      rw [hkey]
      exact ⟨_, scanColumns_hit c r rest h hc⟩
    | none =>
      obtain ⟨htrace, hkey⟩ := scanTrace_of_miss (k := 0) (c := c) rest hc
      rw [htrace] at h ⊢
      rw [hkey, scanColumns_miss c rest (h.mono (by simp; omega)) hc]
      obtain ⟨q, hq⟩ := ih (s.upto (sampleEvents s 0 c ++ [.wrote (.col c) .low]) (s.out.set (.col c) .low))
        (h.upto (by simp; omega) _)
      refine ⟨q, hq.trans ?_⟩
      simp [Latches.set_col]

theorem pinWrite_col_ok (c : Line4) (v : Level) (h : s.AllSucceed 1) :
    pinWrite (.col c) v s = (.ok (), s.upto [.wrote (.col c) v] (s.out.set (.col c) v)) :=
  pinWrite_ok _ _ (h 0 (by decide))

theorem delay_first_ok (h : s.AllSucceed 1) : delay s = (.ok (), s.upto [.waited 500] s.out) := delay_ok (h 0 (by decide))

theorem pinWrite_col_stops (s : State) (c : Line4) (v : Level) : Stops (pinWrite (.col c) v) s [.wrote (.col c) v] :=
  pinWrite_stops s v Line.noConfusion

/-- What follows the four reads under column `c` (R116, steps 2c and 2d). -/
def scanAfterSample (c : Line4) (rest : List Line4) (rows : BitVec 4) : Proc (Option Nibble) := fun s =>
  match decodeOneHot rows with
  | some r => (.ok (some (Keymap.entry s.keymap r c)), s)
  | none => andThen (pinWrite (.col c) .low) (fun _ => scanColumns rest) s

theorem scanColumns_cons (c : Line4) (rest : List Line4) :
    scanColumns (c :: rest) =
      andThen (pinWrite (.col c) .high) fun _ => andThen delay fun _ => andThen readRows (scanAfterSample c rest) := rfl

theorem scanAfterSample_stops (c : Line4) (rest : List Line4) (ih : ∀ s, Stops (scanColumns rest) s (scanTrace s 0 rest))
    (rows : BitVec 4) (s : State) :
    Stops (scanAfterSample c rest rows) s
      (match decodeOneHot rows with
        | some _ => []
        | none => [.wrote (.col c) .low] ++ scanTrace s 1 rest) := by
  unfold scanAfterSample
  cases decodeOneHot rows with
  | some r => exact Stops.nil
  | none =>
    have hrest := ih (s.upto [.wrote (.col c) .low] (s.out.set (.col c) .low))
    rw [scanTrace_upto] at hrest
    exact (pinWrite_col_stops s c .low).andThen (pinWrite_col_ok c .low) hrest

theorem scanColumns_stops (l : List Line4) (s : State) : Stops (scanColumns l) s (scanTrace s 0 l) := by
  induction l generalizing s with
  | nil => exact Stops.nil
  | cons c rest ih =>
    rw [scanColumns_cons]
    refine (congrArg (Stops _ s) ?_).mp ((pinWrite_col_stops s c .high).andThen (pinWrite_col_ok c .high) <|
      (delay_stops _).andThen delay_first_ok <| (readRows_stops _).andThen readRows_ok <|
      scanAfterSample_stops c rest ih _ _)
    simp only [scanTrace, sampleEvents, List.append_assoc, readEvents_upto, State.sampleAt_upto, scanTrace_upto,
      State.upto_upto]
    rfl

end Sys2Proof.Machine
end

section
/-! PROOF. READ_KEY and IS_ANY_KEY_PRESSED (spec/40_keypad_matrix_scanner.md rules R115 to R121): completion, failure, the
restoration on every path, and the answer under the ideal key matrix (spec/20_memory.md rule R66). -/

namespace Sys2Proof.Machine

variable {s : State}

/-! The restoration (R117). -/

/-- The restoring writes over some columns, as the environment answers them from exchange `k` on. -/
def restoreEvents (s : State) : Nat → List Line4 → List Event
  | _, [] => []
  | k, c :: rest => restoreEvent s k c :: restoreEvents s (k + 1) rest

@[simp] theorem restoreEvents_upto (es : List Event) (o : Latches) (k : Nat) (l : List Line4) :
    restoreEvents (s.upto es o) k l = restoreEvents s (es.length + k) l := by
  induction l generalizing k with
  | nil => rfl
  | cons c rest ih => simp only [restoreEvents, restoreEvent, State.answerAt_upto, ih, Nat.add_assoc]

/-- Every restoring write is attempted, whatever the others answered. -/
theorem restoreFrom_events (l : List Line4) (first : Option Kind) (s : State) :
    ∃ o, (restoreFrom l first s).2 = s.upto (restoreEvents s 0 l) o := by
  induction l generalizing first s with
  | nil => exact ⟨s.out, rfl⟩
  | cons c rest ih =>
    unfold restoreFrom
    by_cases h : s.answerAt 0 = .fails
    · have hevent : restoreEvent s 0 c = .writeFailed (.col c) .high := if_pos h
      rw [pinWrite_fails _ _ h, restoreEvents, hevent]
      obtain ⟨o, ho⟩ := ih (first.or (some (Line.col c).kind))
        (s.upto [.writeFailed (.col c) .high] (s.out.set (.col c) (Config.freeLevel s.log.length)))
      rw [restoreEvents_upto, State.upto_upto] at ho
      exact ⟨o, ho⟩
    · have hevent : restoreEvent s 0 c = .wrote (.col c) .high := if_neg h
      rw [pinWrite_ok _ _ h, restoreEvents, hevent]
      obtain ⟨o, ho⟩ := ih first (s.upto [.wrote (.col c) .high] (s.out.set (.col c) .high))
      rw [restoreEvents_upto, State.upto_upto] at ho
      exact ⟨o, ho⟩

theorem restore_events (s : State) : ∃ o, (restore s).2 = s.upto (restoreEvents s 0 lines4) o :=
  restoreFrom_events lines4 none s

/-- The restoration leaves the columns high when none of its writes fails. -/
theorem restore_cols (h : ∀ e ∈ restoreEvents s 0 lines4, Event.failure e ≠ some .pinWrite) :
    (restore s).2.out.cols = Quad.all .high := by
  have hanswer : ∀ k (c : Line4), restoreEvent s k c ∈ restoreEvents s 0 lines4 → s.answerAt k ≠ .fails := by
    intro k c hmem hfail
    refine h _ hmem ?_
    rw [restoreEvent, if_pos hfail]
    rfl
  have hall : s.AllSucceed 4 := by
    intro k hk
    match k, hk with
    | 0, _ => exact hanswer 0 0 (by simp [restoreEvents, lines4])
    | 1, _ => exact hanswer 1 1 (by simp [restoreEvents, lines4])
    | 2, _ => exact hanswer 2 2 (by simp [restoreEvents, lines4])
    | 3, _ => exact hanswer 3 3 (by simp [restoreEvents, lines4])
  rw [restore_ok hall]
  rfl

/-! The scan as a whole (R116). -/

/-- The scan begun `k` exchanges from now. -/
def scanEvents (s : State) (k : Nat) : List Event := driveEvents .low ++ scanTrace s (k + 4) lines4

theorem scanEvents_upto (es : List Event) (o : Latches) :
    scanEvents (s.upto es o) 0 = scanEvents s es.length := by
  simp only [scanEvents, scanTrace_upto, Nat.zero_add]

theorem scan_ok (h : s.AllSucceed (scanEvents s 0).length) :
    ∃ q, scan s = (.ok (scanKey s 4 lines4), s.upto (scanEvents s 0) (s.out.withCols q)) := by
  obtain ⟨q, hq⟩ := scanColumns_ok lines4 (s.upto (driveEvents .low) (s.out.withCols (Quad.all .low))) <| by
    rw [scanTrace_upto]
    exact h.upto (by rw [scanEvents, List.length_append]; exact Nat.le_refl _) _
  refine ⟨q, (andThen_of_ok (driveAll_ok .low (h.mono (by rw [scanEvents, List.length_append]; simp)))).trans ?_⟩
  rw [hq]
  simp [scanEvents]

theorem driveAll_stops (v : Level) (s : State) : Stops (driveAll v) s (driveEvents v) :=
  (pinWrite_col_stops s 0 v).andThen (pinWrite_col_ok 0 v) <|
  (pinWrite_col_stops _ 1 v).andThen (pinWrite_col_ok 1 v) <|
  (pinWrite_col_stops _ 2 v).andThen (pinWrite_col_ok 2 v) <|
  (pinWrite_col_stops _ 3 v).andThen_nothing (pinWrite_col_ok 3 v)

theorem scan_stops (s : State) : Stops scan s (scanEvents s 0) := by
  have hcols := scanColumns_stops lines4 (s.upto (driveEvents .low) (s.out.withCols (Quad.all .low)))
  rw [scanTrace_upto] at hcols
  exact (driveAll_stops .low s).andThen (driveAll_ok .low) hcols

/-! READ_KEY after a pre-check that read some row high (R118). -/

/-- The trace of a READ_KEY that scans and succeeds (R118, R121). -/
def readKeyEvents (s : State) : List Event := readEvents s 0 ++ scanEvents s 4 ++ driveEvents .high

theorem readKeyEvents_load (s : State) (o : Operands) : readKeyEvents (s.load o) = readKeyEvents s := rfl

theorem scanKey_load (s : State) (o : Operands) (k : Nat) : scanKey (s.load o) k lines4 = scanKey s k lines4 := rfl

theorem readKeyBody_of_pressed (hpre : s.AllSucceed 4) (hsome : s.sampleAt 0 ≠ 0b0000#4) :
    readKeyBody s =
      (scanVerdict (scan (s.upto (readEvents s 0) s.out)).1 (restore (scan (s.upto (readEvents s 0) s.out)).2).1,
        (restore (scan (s.upto (readEvents s 0) s.out)).2).2) := by
  unfold readKeyBody
  rw [andThen_of_ok (readRows_ok hpre)]
  simp only [if_neg hsome]

theorem readKeyBody_ok (h : s.AllSucceed (readKeyEvents s).length) (hsome : s.sampleAt 0 ≠ 0b0000#4) :
    readKeyBody s =
      (.ok (valueKey (scanKey s 8 lines4)), s.upto (readKeyEvents s) (s.out.withCols (Quad.all .high))) := by
  have hlen : (readKeyEvents s).length = 4 + (scanEvents s 4).length + 4 := by
    simp only [readKeyEvents, List.length_append, readEvents_length, driveEvents_length]
  rw [hlen] at h
  have hscanning : (s.upto (readEvents s 0) s.out).AllSucceed (scanEvents (s.upto (readEvents s 0) s.out) 0).length := by
    rw [scanEvents_upto]
    exact h.upto (Nat.le_add_right _ _) _
  obtain ⟨q, hscan⟩ := scan_ok hscanning
  rw [scanEvents_upto, scanKey_upto, State.upto_upto, readEvents_length, State.upto_out] at hscan
  have hrestoring : (s.upto (readEvents s 0 ++ scanEvents s 4) (s.out.withCols q)).AllSucceed 4 :=
    h.upto (by rw [List.length_append]; exact Nat.le_refl _) _
  have hrestore := restore_ok hrestoring
  rw [State.upto_upto] at hrestore
  rw [readKeyBody_of_pressed (h.mono (by omega)) hsome]
  simp only [hscan, hrestore]
  rfl

theorem exec_readKey_ok (h : s.AllSucceed (readKeyEvents s).length) (hsome : s.sampleAt 0 ≠ 0b0000#4) :
    ∃ t, exec .readKey s = .next t ∧ Responded s t (readKeyEvents s) 0#4 (valueKey (scanKey s 8 lines4)) ∧
      t.fb = s.fb ∧ t.keymap = s.keymap ∧ t.out = { s.out with cols := Quad.all .high } := by
  have hbody := readKeyBody_ok (s := s.load (loadOp s.operands 0x04#8)) h hsome
  rw [readKeyEvents_load, scanKey_load] at hbody
  refine ⟨_, rfl, ?_⟩
  rw [hbody]
  exact ⟨Responded.of_upto s _ (readKeyEvents s) _ s.fb statusOk _, rfl, rfl, rfl⟩


/-! Which columns are scanned. -/

/-- Steps 2a to 2d of columns that give no key, begun `k` exchanges from now. -/
def missesFrom (s : State) : Nat → List Line4 → List Event
  | _, [] => []
  | k, c :: rest => sampleEvents s k c ++ ([.wrote (.col c) .low] ++ missesFrom s (k + 7) rest)

theorem missesFrom_length (k : Nat) (l : List Line4) : (missesFrom s k l).length = 7 * l.length := by
  induction l generalizing k with
  | nil => rfl
  | cons c rest ih => simp [missesFrom, ih]; omega

theorem missesFrom_columnsBefore (s : State) (c : Nat) :
    missesFrom s 8 (columnsBefore c) = (columnsBefore c).flatMap (missEvents s) := by
  match c with
  | 0 => rfl
  | 1 => rfl
  | 2 => rfl
  | 3 => rfl
  | _ + 4 => simp [columnsBefore, lines4]; rfl

/-- Columns whose samples are not one-hot are passed. -/
theorem scanTrace_append_of_miss {k : Nat} {l : List Line4} (rest : List Line4)
    (h : ∀ j < l.length, decodeOneHot (s.sampleAt (k + 7 * j + 2)) = none) :
    scanTrace s k (l ++ rest) = missesFrom s k l ++ scanTrace s (k + 7 * l.length) rest ∧
      scanKey s k (l ++ rest) = scanKey s (k + 7 * l.length) rest := by
  induction l generalizing k with
  | nil => exact ⟨rfl, rfl⟩
  | cons c l ih =>
    obtain ⟨htrace, hkey⟩ := scanTrace_of_miss (c := c) (l ++ rest) (h 0 (Nat.succ_pos _))
    obtain ⟨ihtrace, ihkey⟩ := ih (k := k + 7) fun j hj => by
      have hnext := h (j + 1) (Nat.succ_lt_succ hj)
      rwa [Nat.mul_succ, Nat.add_comm (7 * j), ← Nat.add_assoc] at hnext
    have hpos : k + 7 + 7 * l.length = k + 7 * (c :: l).length := by rw [List.length_cons]; omega
    rw [List.cons_append, htrace, hkey, ihtrace, ihkey, hpos]
    simp only [missesFrom, List.append_assoc, true_and]

/-- As far as the samples read so far go, a scan is one that gives no key. -/
theorem scanTrace_take {k : Nat} {l : List Line4} {n : Nat}
    (h : ∀ j < l.length, 7 * j + 6 < n → decodeOneHot (s.sampleAt (k + 7 * j + 2)) = none) :
    (scanTrace s k l).take n = (missesFrom s k l).take n := by
  induction l generalizing k n with
  | nil => rfl
  | cons c l ih =>
    by_cases hn : n ≤ 6
    · rw [scanTrace, missesFrom, List.take_append_of_le_length hn, List.take_append_of_le_length hn]
    · obtain ⟨m, rfl⟩ := Nat.exists_eq_add_of_lt (Nat.lt_of_not_le hn)
      obtain ⟨htrace, -⟩ := scanTrace_of_miss (c := c) l (h 0 (Nat.succ_pos _) (by omega))
      have hrest := ih (k := k + 7) (n := m) fun j hj hjm => by
        have hnext := h (j + 1) (Nat.succ_lt_succ hj) (by omega)
        rwa [Nat.mul_succ, Nat.add_comm (7 * j), ← Nat.add_assoc] at hnext
      have hlen : 6 + m + 1 = (sampleEvents s k c ++ [Event.wrote (.col c) .low]).length + m := by simp; omega
      rw [htrace, missesFrom, hlen, ← List.append_assoc, ← List.append_assoc, List.take_length_add_append,
        List.take_length_add_append, hrest]

/-- The scan of a READ_KEY that resolves nothing (R116). -/
def missScanEvents (s : State) : List Event := driveEvents .low ++ missesFrom s 8 lines4

theorem missScanEvents_length : (missScanEvents s).length = 32 := by
  rw [missScanEvents, List.length_append, missesFrom_length]
  rfl

theorem missTrace_eq (s : State) : missTrace s = readEvents s 0 ++ missScanEvents s ++ driveEvents .high := by
  rw [missTrace, ← missesFrom_columnsBefore, missScanEvents, List.append_assoc (readEvents s 0)]
  rfl

/-! The operations. -/

/-- Settles O45: VALUE is zero exactly when the sample is, and the sample when no row reads high. -/
theorem isAnyKeyCompletes : Obligations.IsAnyKeyCompletes := by
  unfold Obligations.IsAnyKeyCompletes
  intro s h
  have hvalue : valueAny (s.sampleAt 0) =
      if s.levelAt 0 = .high ∨ s.levelAt 1 = .high ∨ s.levelAt 2 = .high ∨ s.levelAt 3 = .high then 1#5 else 0#5 := by
    unfold valueAny
    by_cases hnone : s.sampleAt 0 = 0b0000#4
    · have hlow := (sampleAt_eq_zero_iff s 0).mp hnone
      rw [if_pos hnone, if_neg]
      rintro (h | h | h | h)
      · exact hlow 0 h
      · exact hlow 1 h
      · exact hlow 2 h
      · exact hlow 3 h
    · rw [if_neg hnone, if_pos]
      by_contra hlow
      refine hnone ((sampleAt_eq_zero_iff s 0).mpr fun q => ?_)
      fin_cases q <;> simp_all
  have hreads := readRows_ok (h.load (loadOp s.operands 0x03#8))
  refine ⟨_, rfl, ?_⟩
  rw [andThen_of_ok hreads, ← hvalue]
  exact ⟨Responded.of_upto s _ (readEvents s 0) _ s.fb statusOk _, rfl, rfl, rfl⟩

/-- Settles O46: a pre-check that reads nothing ends READ_KEY. -/
theorem readKeyIdle : Obligations.ReadKeyIdle := by
  unfold Obligations.ReadKeyIdle
  intro s h hnone
  have hbody : readKeyBody (s.load (loadOp s.operands 0x04#8)) =
      (.ok (valueKey none), (s.load (loadOp s.operands 0x04#8)).upto (readEvents s 0) s.out) :=
    (andThen_of_ok (readRows_ok (h.load _))).trans (if_pos hnone)
  refine ⟨_, rfl, ?_⟩
  rw [hbody]
  exact ⟨Responded.of_upto s _ (readEvents s 0) _ s.fb statusOk _, rfl, rfl, rfl⟩

/-- Settles O47: the columns before `c` are passed, and column `c` ends the scan with its key. -/
theorem readKeyResolves : Obligations.ReadKeyResolves := by
  unfold Obligations.ReadKeyResolves
  intro s c r h hsome hmiss hhit
  have hsplit : lines4 = columnsBefore c.val ++ c :: lines4.drop (c.val + 1) := by fin_cases c <;> rfl
  have hlen : (columnsBefore c.val).length = c.val := by fin_cases c <;> rfl
  have hpos : ∀ j, 8 + 7 * j + 2 = scanReadAt j := fun j => by unfold scanReadAt; omega
  obtain ⟨htrace, hkey⟩ := scanTrace_append_of_miss (s := s) (k := 8) (c :: lines4.drop (c.val + 1)) fun j hj => by
    rw [hlen] at hj
    rw [hpos]
    exact hmiss ⟨j, Nat.lt_trans hj c.isLt⟩ hj
  rw [← hpos] at hhit
  obtain ⟨htrace', hkey'⟩ := scanTrace_of_hit (lines4.drop (c.val + 1)) hhit
  rw [hlen] at htrace hkey
  rw [← hsplit, htrace', missesFrom_columnsBefore] at htrace
  rw [← hsplit, hkey'] at hkey
  have hevents : readKeyEvents s = hitTrace s c := by
    have hhitEvents : sampleEvents s (8 + 7 * c.val) c = hitEvents s c := by rw [hitEvents, ← hpos]; rfl
    rw [readKeyEvents, scanEvents, htrace, hitTrace, hhitEvents]
    simp only [List.append_assoc]
  have hcount : (hitTrace s c).length = 18 + 7 * c.val := by
    fin_cases c <;> rfl
  obtain ⟨t, ht, hresp, hrest⟩ := exec_readKey_ok (s := s) (by rwa [hevents, hcount]) hsome
  rw [hevents, hkey] at hresp
  exact ⟨t, ht, hresp, hrest⟩

/-- Settles O48: all four columns are passed. -/
theorem readKeyResolvesNothing : Obligations.ReadKeyResolvesNothing := by
  unfold Obligations.ReadKeyResolvesNothing
  intro s h hsome hmiss
  have hpos : ∀ j, 8 + 7 * j + 2 = scanReadAt j := fun j => by unfold scanReadAt; omega
  obtain ⟨htrace, hkey⟩ := scanTrace_append_of_miss (s := s) (k := 8) (l := lines4) [] fun j hj => by
    rw [hpos]
    exact hmiss ⟨j, hj⟩
  have hevents : readKeyEvents s = missTrace s := by
    rw [missTrace_eq, readKeyEvents, scanEvents, missScanEvents]
    rw [List.append_nil] at htrace
    rw [htrace]
    simp [scanTrace]
  obtain ⟨t, ht, hresp, hrest⟩ := exec_readKey_ok (s := s) (by rw [hevents]; exact h) hsome
  rw [List.append_nil] at hkey
  rw [hevents, hkey] at hresp
  exact ⟨t, ht, hresp, hrest⟩

end Sys2Proof.Machine
end

section
/-! PROOF. The keypad operations when an exchange fails, what they leave unchanged, and which operation can report which
error (spec/40_keypad_matrix_scanner.md rules R115 to R120, spec/60_exceptions.md rules R213 to R215). -/

namespace Sys2Proof.Machine

variable {s : State}

theorem Event.kind_failed (e : Event) : e.failed.kind = e.kind := by cases e <;> rfl

theorem respond_log (r : Yield (BitVec 5) × State) : (respond r).log = r.2.log := by
  obtain ⟨y, s⟩ := r
  cases y <;> rfl

theorem respond_out (r : Yield (BitVec 5) × State) : (respond r).out = r.2.out := by
  obtain ⟨y, s⟩ := r
  cases y <;> rfl

theorem respond_fb (r : Yield (BitVec 5) × State) : (respond r).fb = r.2.fb := by
  obtain ⟨y, s⟩ := r
  cases y <;> rfl

/-! A failed pre-check (R115, R118). -/

theorem readEvents_kind {k : Nat} {e : Event} (he : (readEvents s 0)[k]? = some e) :
    e.kind = .pinRead ∧ e.inTryPart = false := by
  have hmem := List.mem_of_getElem? he
  simp only [readEvents, List.mem_cons, List.not_mem_nil, or_false] at hmem
  rcases hmem with rfl | rfl | rfl | rfl <;> exact ⟨rfl, rfl⟩

/-- A body that begins with the pre-check ends with its first failing read, and no latch has moved. -/
theorem respond_of_precheck_fails (f : BitVec 4 → Proc (BitVec 5)) (o : Operands) {k : Nat} {e : Event}
    (hk : s.FirstFailureAt k) (he : (readEvents s 0)[k]? = some e) :
    Responded s (respond (andThen readRows f (s.load o))) ((readEvents s 0).take k ++ [e.failed]) 0x2#4 0#5 ∧
      (respond (andThen readRows f (s.load o))).fb = s.fb ∧
      (respond (andThen readRows f (s.load o))).keymap = s.keymap ∧
      (respond (andThen readRows f (s.load o))).out = s.out := by
  obtain ⟨hkind, htry⟩ := readEvents_kind he
  obtain ⟨o', hstop⟩ := readRows_stops (s.load o) k e hk he
  have hout := readRows_out (s.load o)
  rw [hstop] at hout
  have htrace : stoppedEvents (s.load o) (readEvents (s.load o) 0) k e = (readEvents s 0).take k ++ [e.failed] := by
    rw [stoppedEvents, htry]
    exact List.append_nil _
  rw [andThen_of_err hstop, htrace, hkind]
  exact ⟨Responded.of_upto s o _ o' s.fb (statusOf .pinRead) valueNone, rfl, rfl, hout⟩

/-- Settles O51: both operations begin with the pre-check. -/
theorem precheckFailureTouchesNothing : Obligations.PrecheckFailureTouchesNothing := by
  unfold Obligations.PrecheckFailureTouchesNothing
  intro i s k hi hlt hk
  obtain ⟨e, he⟩ := exists_getElem? (es := readEvents s 0) hlt
  rw [he]
  rcases hi with rfl | rfl
  · exact ⟨_, rfl, respond_of_precheck_fails _ _ hk he⟩
  · exact ⟨_, rfl, respond_of_precheck_fails _ _ hk he⟩

/-! A failure inside the scan (R117, R118). -/

theorem sampleEvents_inTryPart {k : Nat} {c : Line4} {e : Event} (he : e ∈ sampleEvents s k c) :
    e.inTryPart = false := by
  simp only [sampleEvents, readEvents, List.mem_cons, List.mem_append, List.not_mem_nil, or_false] at he
  rcases he with (rfl | rfl) | rfl | rfl | rfl | rfl <;> rfl

theorem scanTrace_inTryPart {k : Nat} {l : List Line4} {e : Event} (he : e ∈ scanTrace s k l) : e.inTryPart = false := by
  induction l generalizing k with
  | nil => cases he
  | cons c rest ih =>
    rw [scanTrace, List.mem_append] at he
    rcases he with he | he
    · exact sampleEvents_inTryPart he
    · cases hc : decodeOneHot (s.sampleAt (k + 2)) with
      | some r => simp [hc] at he
      | none =>
        simp only [hc, List.singleton_append, List.mem_cons] at he
        rcases he with rfl | he
        · rfl
        · exact ih he

/-- No exchange of the scan lies in a transaction. -/
theorem scanEvents_inTryPart {k : Nat} {e : Event} (he : e ∈ scanEvents s k) : e.inTryPart = false := by
  rw [scanEvents, List.mem_append] at he
  rcases he with he | he
  · simp only [driveEvents, List.mem_cons, List.not_mem_nil, or_false] at he
    rcases he with rfl | rfl | rfl | rfl <;> rfl
  · exact scanTrace_inTryPart he

/-- The trace of a READ_KEY whose scan fails at its exchange `j`, which would have left `e`. -/
def scanFailedEvents (s : State) (j : Nat) (e : Event) : List Event :=
  readEvents s 0 ++ (scanEvents s 4).take j ++ [e.failed] ++ restoreEvents s (4 + j + 1) lines4

theorem readKeyBody_scan_fails {j : Nat} {e : Event} (hk : s.FirstFailureAt (4 + j)) (hsome : s.sampleAt 0 ≠ 0b0000#4)
    (he : (scanEvents s 4)[j]? = some e) :
    ∃ o, readKeyBody s = (.err e.kind, s.upto (scanFailedEvents s j e) o) := by
  have hscan := scan_stops (s.upto (readEvents s 0) s.out)
  rw [scanEvents_upto] at hscan
  obtain ⟨o, hstop⟩ := hscan j e (hk.upto (es := readEvents s 0) s.out) he
  have htry := scanEvents_inTryPart (List.mem_of_getElem? he)
  have htrace : stoppedEvents (s.upto (readEvents s 0) s.out) (scanEvents s (readEvents s 0).length) j e =
      (scanEvents s 4).take j ++ [e.failed] := by
    rw [stoppedEvents, htry]
    exact List.append_nil _
  rw [htrace, State.upto_upto] at hstop
  have hlen : (readEvents s 0 ++ ((scanEvents s 4).take j ++ [e.failed])).length + 0 = 4 + j + 1 := by
    obtain ⟨hlt, -⟩ := List.getElem?_eq_some_iff.mp he
    simp only [List.length_append, readEvents_length, List.length_take, List.length_singleton]
    omega
  obtain ⟨o', hrestore⟩ := restore_events (s.upto (readEvents s 0 ++ ((scanEvents s 4).take j ++ [e.failed])) o)
  rw [restoreEvents_upto, State.upto_upto, hlen] at hrestore
  refine ⟨o', ?_⟩
  rw [readKeyBody_of_pressed (hk.1.mono (Nat.le_add_right 4 j)) hsome, hstop]
  refine Prod.ext rfl (hrestore.trans ?_)
  simp only [scanFailedEvents, List.append_assoc]

theorem exec_readKey_scan_fails {j : Nat} {e : Event} (hk : s.FirstFailureAt (4 + j))
    (hsome : s.sampleAt 0 ≠ 0b0000#4) (he : (scanEvents s 4)[j]? = some e) :
    ∃ t, exec .readKey s = .next t ∧ Responded s t (scanFailedEvents s j e) (statusOf e.kind) 0#5 ∧ t.fb = s.fb ∧
      t.keymap = s.keymap := by
  obtain ⟨o, hbody⟩ := readKeyBody_scan_fails (s := s.load (loadOp s.operands 0x04#8)) hk hsome he
  refine ⟨_, rfl, ?_⟩
  rw [hbody]
  exact ⟨Responded.of_upto s _ (scanFailedEvents s j e) o s.fb (statusOf e.kind) valueNone, rfl, rfl⟩

/-- Settles O50: as far as it got, the scan is one that gives no key; the restoration makes its four writes. -/
theorem scanFailureRestores : Obligations.ScanFailureRestores := by
  unfold Obligations.ScanFailureRestores
  intro s k e hk hsome hmiss h4 h36 he
  obtain ⟨j, rfl⟩ := Nat.exists_eq_add_of_le h4
  have hj : j < (missScanEvents s).length := by rw [missScanEvents_length]; omega
  have hmissed : (missTrace s)[4 + j]? = (missScanEvents s)[j]? := by
    rw [missTrace_eq, List.append_assoc, List.getElem?_append_right (by simp), List.getElem?_append_left (by simpa using hj)]
    simp
  have htake : (missTrace s).take (4 + j) = readEvents s 0 ++ (missScanEvents s).take j := by
    rw [missTrace_eq, List.append_assoc]
    exact (List.take_length_add_append (l₁ := readEvents s 0) (i := j)).trans
      (congrArg _ (List.take_append_of_le_length (Nat.le_of_lt hj)))
  have hsame : (scanEvents s 4).take (j + 1) = (missScanEvents s).take (j + 1) := by
    rw [scanEvents, missScanEvents, List.take_append, List.take_append]
    refine congrArg _ (scanTrace_take fun d hd hread => ?_)
    have hlt := hmiss ⟨d, hd⟩ (by simp only [scanReadAt, driveEvents_length] at *; omega)
    have hpos : scanReadAt d = 4 + 4 + 7 * d + 2 := by unfold scanReadAt; omega
    rwa [← hpos]
  have hscan : (scanEvents s 4)[j]? = some e := by
    rw [← he, hmissed, ← List.getElem?_take_of_lt (Nat.lt_succ_self j), hsame,
      List.getElem?_take_of_lt (Nat.lt_succ_self j)]
  have htakej : (scanEvents s 4).take j = (missScanEvents s).take j := by
    have hprev := congrArg (List.take j) hsame
    rwa [List.take_take, List.take_take, Nat.min_eq_left (Nat.le_succ j)] at hprev
  obtain ⟨t, ht, ⟨hlog, -, -, hresult, -⟩, hfb, hkeymap⟩ := exec_readKey_scan_fails hk hsome hscan
  rw [scanFailedEvents, htakej, ← htake] at hlog
  refine ⟨t, ht, hlog, fun kind hkind => ?_, hfb, hkeymap⟩
  rw [hresult, ← e.kind_failed, Event.kind_of_failure hkind]

/-! The columns after READ_KEY (R119). -/

theorem readRows_exchanged : Always Exchanged readRows :=
  Always.readRows (R := Exchanged) Exchanged.refl Exchanged.trans pinRead_exchanged

theorem scan_exchanged : Always Exchanged scan :=
  Always.scan (R := Exchanged) Exchanged.refl Exchanged.trans pinRead_exchanged (fun _ => pinWrite_exchanged _)
    delay_exchanged

/-- READ_KEY either never reaches the scan, and then no latch has moved, or ends with the restoration. -/
theorem readKeyBody_cases (s : State) :
    (readKeyBody s).2.out = s.out ∨
      ∃ v, Exchanged s v ∧ (readKeyBody s).2 = (restore v).2 := by
  have hout := readRows_out s
  have hran := readRows_exchanged s
  unfold readKeyBody
  cases hreads : readRows s with
  | mk y u =>
    rw [hreads] at hout hran
    cases y with
    | err k =>
      rw [andThen_of_err hreads]
      exact .inl hout
    | ok rows =>
      rw [andThen_of_ok hreads]
      by_cases hnone : rows = 0b0000#4
      · rw [if_pos hnone]
        exact .inl hout
      · rw [if_neg hnone]
        exact .inr ⟨(scan u).2, hran.trans (scan_exchanged u), rfl⟩

/-- Settles O49: the last four exchanges of a READ_KEY that reached the scan are the restoring writes. -/
theorem readKeyRestoresTheColumns : Obligations.ReadKeyRestoresTheColumns := by
  unfold Obligations.ReadKeyRestoresTheColumns
  intro s t events hhigh ht hev hlast
  cases ht
  rw [respond_out]
  rcases readKeyBody_cases (s.load (loadOp s.operands 0x04#8)) with hout | ⟨v, ⟨es, hlog, -⟩, hrestore⟩
  · rw [hout]
    exact hhigh
  · rw [hrestore]
    refine restore_cols ?_
    obtain ⟨o, hlast4⟩ := restore_events v
    have hevents : events = es ++ restoreEvents v 0 lines4 := by
      refine NewEvents.unique hev ?_
      rw [NewEvents, respond_log, hrestore, hlast4, State.upto_log, hlog, List.reverse_append, List.append_assoc]
      rfl
    have hlen : (es ++ restoreEvents v 0 lines4).length - 4 = es.length := by
      rw [List.length_append]
      rfl
    rwa [hevents, hlen, List.drop_left] at hlast

/-! What the keypad operations leave unchanged. -/

theorem readRows_keypadSide : Always KeypadSide readRows :=
  Always.readRows (R := KeypadSide) (fun _ => ⟨rfl, rfl, rfl, rfl⟩) KeypadSide.trans pinRead_keypadSide

theorem readKeyBody_keypadSide : Always KeypadSide readKeyBody := by
  refine Always.andThen (R := KeypadSide) KeypadSide.trans readRows_keypadSide fun rows s => ?_
  have hrefl : ∀ s, KeypadSide s s := fun _ => ⟨rfl, rfl, rfl, rfl⟩
  split
  · exact hrefl s
  · exact KeypadSide.trans (Always.scan (R := KeypadSide) hrefl KeypadSide.trans pinRead_keypadSide pinWrite_keypadSide
      delay_keypadSide s) (restore_always (R := KeypadSide) hrefl KeypadSide.trans pinWrite_keypadSide _)

/-- The keypad operations and the reserved opcodes. -/
def IsKeypadSide (i : Instr) : Prop :=
  i = .isAnyKeyPressed ∨ i = .readKey ∨ (∃ k, i = .setKeymap k) ∨ (∃ b, i = .reserved b)

theorem IsKeypadSide.host {i : Instr} (hi : IsKeypadSide i) : i.interface = .hostDescriptor := by
  rcases hi with rfl | rfl | ⟨_, rfl⟩ | ⟨_, rfl⟩ <;> rfl

/-- The kinds of the display's exchanges. -/
def IsDisplayKind (k : Kind) : Prop := k = .busWrite ∨ k = .chipSelect ∨ k = .modeSelect ∨ k = .resetLine

theorem IsKeypadSide.not_mayReport {i : Instr} (hi : IsKeypadSide i) {k : Kind} (hk : IsDisplayKind k) :
    ¬MayReport i k := by
  rcases hk with rfl | rfl | rfl | rfl <;> rcases hi with rfl | rfl | ⟨_, rfl⟩ | ⟨_, rfl⟩ <;>
    exact Bool.false_ne_true

theorem IsKeypadSide.fb {i : Instr} (hi : IsKeypadSide i) {t : State} (ht : exec i s = .next t) : t.fb = s.fb := by
  rcases hi with rfl | rfl | ⟨_, rfl⟩ | ⟨_, rfl⟩ <;> cases ht
  · rw [respond_fb]
    have h := Always.andThen (R := KeypadSide) KeypadSide.trans readRows_keypadSide
      (f := fun rows => pureP (valueAny rows)) (fun _ _ => ⟨rfl, rfl, rfl, rfl⟩) (s.load (loadOp s.operands 0x03#8))
    exact h.1
  · rw [respond_fb]
    exact (readKeyBody_keypadSide (s.load (loadOp s.operands 0x04#8))).1
  · rfl
  · rfl

/-- Settles O54: the lines of the display are of kinds these operations cannot report, and but for READ_KEY so are the
columns. -/
theorem keypadFrame : Obligations.KeypadFrame := by
  unfold Obligations.KeypadFrame
  intro i s t hi ht
  obtain ⟨events, h⟩ := hostRun_of_exec (IsKeypadSide.host hi) ht
  have hdisplay : ∀ l : Line, IsDisplayKind l.kind → t.out.get l = s.out.get l := fun l hl =>
    h.untouched l (IsKeypadSide.not_mayReport hi hl)
  refine ⟨IsKeypadSide.fb hi ht, hdisplay .cs (.inr (.inl rfl)), hdisplay .dc (.inr (.inr (.inl rfl))),
    hdisplay .rst (.inr (.inr (.inr rfl))), h.cmdIn, h.keymap, fun hne => h.cols ?_⟩
  rcases hi with rfl | rfl | ⟨_, rfl⟩ | ⟨_, rfl⟩
  · decide
  · exact absurd rfl hne
  · exact Bool.false_ne_true
  · exact Bool.false_ne_true

end Sys2Proof.Machine
end

section
/-! PROOF. What READ_KEY resolves under the ideal key matrix (spec/20_memory.md rule R66, spec/40_keypad_matrix_scanner.md
rule R120), and the table of operations and errors (spec/60_exceptions.md rule R213). -/

namespace Sys2Proof.Machine

variable {s : State} {held : HeldKeys}

/-! The matrix along a trace (R66). -/

theorem matrixLevel_eq_high_iff (cols : Quad Level) (r : Line4) :
    matrixLevel held cols r = .high ↔ ∃ c, (r, c) ∈ held ∧ cols.get c = .high := by
  unfold matrixLevel
  split
  · next h =>
    obtain ⟨⟨r', c⟩, hmem, hkey⟩ := List.any_eq_true.mp h
    simp only [Bool.and_eq_true, decide_eq_true_eq] at hkey
    obtain ⟨rfl, hcol⟩ := hkey
    simpa using ⟨c, hmem, hcol⟩
  · next h =>
    simp only [reduceCtorEq, false_iff, not_exists, not_and]
    intro c hmem hcol
    exact h (List.any_eq_true.mpr ⟨(r, c), hmem, by simp [hcol]⟩)

/-- Four reads that the matrix answers give its levels. -/
theorem matrixAgrees_reads {cols : Quad Level} {k : Nat} {rest : List Event}
    (h : matrixAgrees held cols (readEvents s k ++ rest) = true) :
    (∀ r : Line4, s.levelAt (k + r.val) = matrixLevel held cols r) ∧ matrixAgrees held cols rest = true := by
  simp only [readEvents, List.cons_append, List.nil_append, matrixAgrees, Bool.and_eq_true, decide_eq_true_eq] at h
  obtain ⟨h0, h1, h2, h3, hrest⟩ := h
  refine ⟨fun r => ?_, hrest⟩
  fin_cases r
  · exact h0
  · exact h1
  · exact h2
  · exact h3

/-- The columns that are high while `c` alone is energized (R116). -/
def onlyHigh (c : Line4) : Quad Level := (Quad.all Level.low).set c .high

theorem onlyHigh_get (c d : Line4) : (onlyHigh c).get d = .high ↔ d = c := by
  unfold onlyHigh
  rw [Quad.get_set]
  split <;> simp_all

theorem onlyHigh_set_low (c : Line4) : (onlyHigh c).set c .low = Quad.all .low := by
  refine Quad.eq_of_get fun d => ?_
  rw [Quad.get_set, Quad.get_all]
  split
  · rfl
  · next h => rw [onlyHigh, Quad.get_set_of_ne _ h, Quad.get_all]

/-! The key of one column (R113, R120). -/

/-- The row of the only row in `p`, if there is just one. -/
def onlyRow (p : Line4 → Bool) : Option Line4 :=
  match lines4.filter p with
  | [r] => some r
  | _ => none

theorem onlyRow_eq_some_iff : ∀ (p : Line4 → Bool) (r : Line4), onlyRow p = some r ↔ ∀ q, p q = decide (q = r) := by
  decide

/-- A sample decodes to the only row that reads high. -/
theorem decodeOneHot_sampleAt (s : State) (k : Nat) :
    decodeOneHot (s.sampleAt k) = onlyRow fun r => decide (s.levelAt (k + r.val) = .high) := by
  refine Option.ext fun r => ?_
  rw [onlyOneHotPatternsDecode, onlyRow_eq_some_iff]
  simp only [getLsbD_sampleAt]

/-- The key of the first of some columns in which exactly one row's key is held (R120). -/
def firstOnlyRow (held : HeldKeys) (l : List Line4) : Option (Line4 × Line4) :=
  l.findSome? fun c => (onlyRow fun r => decide ((r, c) ∈ held)).map fun r => (r, c)

theorem resolvedKey_eq (held : HeldKeys) : resolvedKey held = firstOnlyRow held lines4 := by
  unfold resolvedKey firstOnlyRow onlyRow
  congr 1
  funext c
  split <;> simp_all

/-- A scan that the matrix answers, its columns low at the start, resolves the key of its first column with just one key
held. -/
theorem scanKey_of_matrixAgrees {k : Nat} {l : List Line4} {rest : List Event}
    (h : matrixAgrees held (Quad.all .low) (scanTrace s k l ++ rest) = true) :
    scanKey s k l = (firstOnlyRow held l).map fun key => Keymap.entry s.keymap key.1 key.2 := by
  induction l generalizing k with
  | nil => rfl
  | cons c l ih =>
    have hsampling : matrixAgrees held (onlyHigh c) (readEvents s (k + 2) ++
        ((match decodeOneHot (s.sampleAt (k + 2)) with
          | some _ => []
          | none => [.wrote (.col c) .low] ++ scanTrace s (k + 7) l) ++ rest)) = true := by
      rw [scanTrace, sampleEvents, List.append_assoc, List.append_assoc] at h
      exact h
    obtain ⟨hlevels, hafter⟩ := matrixAgrees_reads hsampling
    have hrow : decodeOneHot (s.sampleAt (k + 2)) = onlyRow fun r => decide ((r, c) ∈ held) := by
      rw [decodeOneHot_sampleAt]
      congr 1
      funext r
      rw [hlevels, decide_eq_decide, matrixLevel_eq_high_iff]
      simp [onlyHigh_get]
    rw [firstOnlyRow, List.findSome?_cons, ← hrow]
    cases hc : decodeOneHot (s.sampleAt (k + 2)) with
    | some r =>
      rw [(scanTrace_of_hit l hc).2]
      rfl
    | none =>
      rw [(scanTrace_of_miss l hc).2]
      simp only [hc] at hafter
      refine ih (k := k + 7) ?_
      rw [← onlyHigh_set_low c]
      exact hafter

theorem scanTrace_length_le (s : State) (k : Nat) (l : List Line4) : (scanTrace s k l).length ≤ 7 * l.length := by
  induction l generalizing k with
  | nil => exact Nat.le_refl 0
  | cons c rest ih =>
    have hrest := ih (k + 7)
    cases hc : decodeOneHot (s.sampleAt (k + 2)) with
    | some r =>
      rw [(scanTrace_of_hit rest hc).1, sampleEvents_length, List.length_cons]
      omega
    | none =>
      rw [(scanTrace_of_miss rest hc).1]
      simp only [List.length_append, sampleEvents_length, List.length_cons, List.length_nil]
      omega

/-- Nothing held in the matrix resolves nothing. -/
theorem firstOnlyRow_of_none (h : ∀ r c, (r, c) ∉ held) (l : List Line4) : firstOnlyRow held l = none := by
  refine List.findSome?_eq_none_iff.mpr fun c _ => ?_
  simp only [h, decide_false]
  rfl

/-- Settles O52: the pre-check sees whether any key is held, and the scan one column after another. -/
theorem idealMatrixResolves : Obligations.IdealMatrixResolves := by
  unfold Obligations.IdealMatrixResolves
  intro s t events held hhigh h ht hev hmatrix
  rw [resolvedKey_eq]
  rw [hhigh] at hmatrix
  by_cases hnone : s.sampleAt 0 = 0b0000#4
  · obtain ⟨t', ht', ⟨hlog, -, -, hresult, -⟩, -⟩ := readKeyIdle s (h.mono (by decide)) hnone
    cases ht.symm.trans ht'
    rw [hev.unique hlog, ← List.append_nil (readEvents s 0)] at hmatrix
    have hnothing : ∀ r c, (r, c) ∉ held := fun r c hmem => by
      have hlow := (sampleAt_eq_zero_iff s 0).mp hnone r
      rw [(matrixAgrees_reads hmatrix).1 r] at hlow
      exact hlow ((matrixLevel_eq_high_iff _ r).mpr ⟨c, hmem, Quad.get_all Level.high c⟩)
    rw [hresult, firstOnlyRow_of_none hnothing]
    rfl
  · have hlen : (readKeyEvents s).length ≤ 40 := by
      have hmiss := scanTrace_length_le s 8 lines4
      simp only [readKeyEvents, scanEvents, List.length_append, readEvents_length, driveEvents_length]
      exact Nat.add_le_add_right (Nat.add_le_add_left (Nat.add_le_add_left hmiss 4) 4) 4
    obtain ⟨t', ht', ⟨hlog, -, -, hresult, -⟩, -⟩ := exec_readKey_ok (h.mono hlen) hnone
    cases ht.symm.trans ht'
    rw [hev.unique hlog, readKeyEvents, scanEvents, List.append_assoc, List.append_assoc] at hmatrix
    rw [hresult, scanKey_of_matrixAgrees (matrixAgrees_reads hmatrix).2]

/-! Which operation can report which error (R213). -/

/-- Exchange `k` fails, those before it succeed, and every row reads high. -/
def failingAt (k : Nat) : State := { State.reset with env := List.replicate k (.succeeds .high) ++ [.fails] }

theorem failingAt_answerAt {k j : Nat} (hj : j < k) : (failingAt k).answerAt j = .succeeds .high := by
  have henv : (failingAt k).env[j]? = some (.succeeds .high) := by
    rw [failingAt, List.getElem?_append_left (by simpa using hj), List.getElem?_replicate, if_pos hj]
  unfold State.answerAt
  rw [henv]

theorem failingAt_firstFailureAt (k : Nat) : (failingAt k).FirstFailureAt k := by
  refine ⟨fun j hj => ?_, ?_⟩
  · rw [failingAt_answerAt hj]
    exact Answer.noConfusion
  · have henv : (failingAt k).env[k]? = some .fails := by
      rw [failingAt, List.getElem?_append_right (by simp)]
      simp
    unfold State.answerAt
    rw [henv]

/-- The operation can end with this kind of error. -/
def CanReport (i : Instr) (k : Kind) : Prop := ∃ s t, exec i s = .next t ∧ t.result.status = statusOf k

/-- A display operation reports the kind of any exchange it makes. -/
theorem canReport_of_displayTrace {i : Instr} (k : Nat) {e : Event}
    (he : (displayTrace (failingAt k) i)[k]? = some e) : CanReport i e.kind := by
  obtain ⟨t, ht, ⟨-, -, -, hresult, -⟩, -⟩ := exec_display_stops (failingAt_firstFailureAt k) he
  exact ⟨failingAt k, t, ht, by rw [hresult]⟩

/-- READ_KEY reports the kind of any exchange of its scan. -/
theorem canReport_of_scanEvents (j : Nat) {e : Event} (he : (scanEvents (failingAt (4 + j)) 4)[j]? = some e) :
    CanReport .readKey e.kind := by
  have hsome : (failingAt (4 + j)).sampleAt 0 ≠ 0b0000#4 := fun hnone => by
    refine (sampleAt_eq_zero_iff _ 0).mp hnone 0 ?_
    unfold State.levelAt
    rw [failingAt_answerAt (show 0 + (0 : Line4).val < 4 + j by simp)]
  obtain ⟨t, ht, ⟨-, -, -, hresult, -⟩, -⟩ := exec_readKey_scan_fails (failingAt_firstFailureAt (4 + j)) hsome he
  exact ⟨failingAt (4 + j), t, ht, by rw [hresult]⟩

/-- The pre-check's first read can fail. -/
theorem canReport_pinRead {i : Instr} (hi : i = .isAnyKeyPressed ∨ i = .readKey) : CanReport i .pinRead := by
  obtain ⟨t, ht, ⟨-, -, -, hresult, -⟩, -⟩ :=
    precheckFailureTouchesNothing i (failingAt 0) 0 hi (by decide) (failingAt_firstFailureAt 0)
  exact ⟨failingAt 0, t, ht, by rw [hresult]; rfl⟩

/-- Every cross of the table is reached (R213). -/
theorem canReport_of_mayReport {i : Instr} (hi : i.interface = .hostDescriptor) {k : Kind} (h : MayReport i k) :
    CanReport i k := by
  cases i, hi using Instr.host_cases with
  | init =>
    cases k with
    | resetLine => exact canReport_of_displayTrace (e := .wrote .rst .high) 0 rfl
    | chipSelect => exact canReport_of_displayTrace (e := .wrote .cs .low) 3 rfl
    | modeSelect => exact canReport_of_displayTrace (e := .wrote .dc .low) 4 rfl
    | busWrite => exact canReport_of_displayTrace (e := .sent [Config.cmdStartLine, 0x00#8]) 5 rfl
    | _ => cases h
  | clear =>
    cases k with
    | chipSelect => exact canReport_of_displayTrace (e := .wrote .cs .low) 0 rfl
    | modeSelect => exact canReport_of_displayTrace (e := .wrote .dc .low) 1 rfl
    | busWrite => exact canReport_of_displayTrace (e := .sent [Config.colLoCmd (addrLo 0)]) 2 rfl
    | _ => cases h
  | xor x y sprite =>
    cases sprite with
    | nil => cases k <;> cases h
    | cons sb rest =>
      cases k with
      | chipSelect => exact canReport_of_displayTrace (e := .wrote .cs .low) 0 rfl
      | modeSelect => exact canReport_of_displayTrace (e := .wrote .dc .low) 1 rfl
      | busWrite =>
        exact canReport_of_displayTrace (e := .sent [Config.colLoCmd (addrLo (physCol (rowOf y 0)))]) 2 rfl
      | _ => cases h
  | isAnyKeyPressed =>
    cases k with
    | pinRead => exact canReport_pinRead (.inl rfl)
    | _ => cases h
  | readKey =>
    cases k with
    | pinRead => exact canReport_pinRead (.inr rfl)
    | pinWrite => exact canReport_of_scanEvents (e := .wrote (.col 0) .low) 0 rfl
    | delay => exact canReport_of_scanEvents (e := .waited 500) 5 rfl
    | _ => cases h
  | setKeymap table => cases k <;> cases h
  | reserved opcode =>
    cases k with
    | illegalOp =>
      obtain ⟨t, ht, ⟨-, -, -, hresult, -⟩, -⟩ := reserved_responded State.reset opcode
      exact ⟨State.reset, t, ht, by rw [hresult]; rfl⟩
    | _ => cases h

theorem statusOf_injective {k k' : Kind} (h : statusOf k = statusOf k') : k = k' := by
  revert h
  cases k <;> cases k' <;> decide

theorem statusOf_ne_ok (k : Kind) : statusOf k ≠ 0x0#4 := by
  cases k <;> decide

/-- No blank of the table is reached: an error that is reported is the kind of an exchange that was made (R213). -/
theorem mayReport_of_canReport {i : Instr} (hi : i.interface = .hostDescriptor) {k : Kind} (h : CanReport i k) :
    MayReport i k := by
  obtain ⟨s, t, ht, hstatus⟩ := h
  obtain ⟨events, hrun⟩ := hostRun_of_exec hi ht
  cases hfirst : firstFailure events with
  | some k' =>
    obtain ⟨e, hmem, hfail⟩ := List.exists_of_findSome?_eq_some hfirst
    rw [hrun.failed k' hfirst] at hstatus
    rw [← statusOf_injective hstatus, ← Event.kind_of_failure hfail]
    exact hrun.within.kinds e hmem
  | none =>
    by_cases hreserved : ∃ b, i = .reserved b
    · obtain ⟨b, rfl⟩ := hreserved
      obtain ⟨t', ht', ⟨-, -, -, hresult, -⟩, -⟩ := reserved_responded s b
      cases ht.symm.trans ht'
      rw [hresult] at hstatus
      rw [← statusOf_injective (k := .illegalOp) hstatus]
      exact rfl
    · rw [hrun.succeeded hfirst fun b hb => hreserved ⟨b, hb⟩] at hstatus
      exact absurd hstatus.symm (statusOf_ne_ok k)

/-- Settles O58: the crosses are reached by the failure of an exchange that the operation makes, and the blanks are of
kinds it makes none of. -/
theorem errorsByOperation : Obligations.ErrorsByOperation := by
  unfold Obligations.ErrorsByOperation
  exact fun i k hi => ⟨canReport_of_mayReport hi, mayReport_of_canReport hi⟩

end Sys2Proof.Machine
end

section
/-! PROOF. The sequencer one exchange at a time and the operation as one function agree (spec/10_state.md rule R33): each
procedure is simulated by the advances from the position where it begins. -/

namespace Sys2Proof.Machine

/-! Advances. -/

theorem ticks_add (m n : Nat) (s : State) : ticks (m + n) s = ticks n (ticks m s) := by
  induction m generalizing s with
  | zero => rw [Nat.zero_add]; rfl
  | succ m ih => rw [Nat.succ_add, ticks, ticks, ih]

theorem ticks_of_idle {s : State} (hs : s.seq = .idle) (n : Nat) : ticks n s = s := by
  have htick : tick s = s := by unfold tick; rw [hs]
  induction n with
  | zero => rfl
  | succ n ih => rw [ticks, htick, ih]

/-- Some number of advances leads from `s` to `t`. -/
def Reaches (s t : State) : Prop := ∃ n, ticks n s = t

theorem Reaches.refl (s : State) : Reaches s s := ⟨0, rfl⟩

theorem Reaches.trans {s t u : State} (h : Reaches s t) (g : Reaches t u) : Reaches s u := by
  obtain ⟨m, rfl⟩ := h
  obtain ⟨n, rfl⟩ := g
  exact ⟨m + n, ticks_add m n s⟩

theorem Reaches.of_tick {s t : State} (h : Reaches (tick s) t) : Reaches s t := by
  obtain ⟨n, rfl⟩ := h
  exact ⟨n + 1, rfl⟩

theorem State.goto_self {s : State} {op : Op} {ph : Phase} (hs : s.seq = .busy op ph) : s.goto op ph = s := by
  unfold State.goto
  rw [← hs]

/-! Where a procedure's yield sends the sequencer. -/

/-- After a procedure: on to the position its value or its error gives. -/
def resume {α : Type} (op : Op) (r : Yield α × State) (onOk : α → Phase) (onErr : Kind → Phase) : State :=
  match r with
  | (.ok v, s) => s.goto op (onOk v)
  | (.err k, s) => s.goto op (onErr k)

/-- From `s` and the position `start` the advances do what the procedure does, and come to the position its yield gives. -/
def Simulates {α : Type} (op : Op) (start : Phase) (p : Proc α) (onOk : α → Phase) (onErr : Kind → Phase)
    (s : State) : Prop := Reaches (s.goto op start) (resume op (p s) onOk onErr)

section
variable {α β : Type} {op : Op} {start : Phase} {p : Proc α} {q : α → Proc β} {mid : α → Phase} {onOk : β → Phase}
  {onErr : Kind → Phase} {s : State}

theorem branch_eq_resume (r : Yield Unit × State) (ph : Phase) :
    branch op r ph onErr = resume op r (fun _ => ph) onErr := by
  obtain ⟨y, t⟩ := r
  cases y <;> rfl

/-- A procedure without an exchange, which the sequencer has no position for. -/
theorem Simulates.pureP (v : β) : Simulates op (onOk v) (pureP v) onOk onErr s := Reaches.refl _

/-- One advance. -/
theorem Simulates.of_tick {r : Proc β} (h : tickAt op start (s.goto op start) = resume op (r s) onOk onErr) :
    Simulates op start r onOk onErr s := ⟨1, h⟩

theorem Simulates.of_eq {r r' : Proc β} (h : Simulates op start r onOk onErr s) (hr : r' s = r s) :
    Simulates op start r' onOk onErr s := by
  unfold Simulates
  rwa [hr]

theorem Simulates.andThen (hp : Simulates op start p mid onErr s)
    (hq : ∀ v t, p s = (.ok v, t) → Simulates op (mid v) (q v) onOk onErr t) :
    Simulates op start (andThen p q) onOk onErr s := by
  refine Reaches.trans hp ?_
  cases h : p s with
  | mk y t =>
    cases y with
    | ok v =>
      rw [andThen_of_ok h]
      exact hq v t h
    | err k =>
      rw [andThen_of_err h]
      exact Reaches.refl _

end

/-! The primitive exchanges do not look at the sequencer. -/

section
variable (s : State) (op : Op) (ph : Phase)

theorem State.answer_goto : (s.goto op ph).answer = s.answer := rfl

theorem pinWrite_goto (l : Line) (v : Level) :
    pinWrite l v (s.goto op ph) = ((pinWrite l v s).1, (pinWrite l v s).2.goto op ph) := by
  unfold pinWrite
  rw [State.answer_goto]
  cases s.answer <;> rfl

theorem pinRead_goto (r : Line4) : pinRead r (s.goto op ph) = ((pinRead r s).1, (pinRead r s).2.goto op ph) := by
  unfold pinRead
  rw [State.answer_goto]
  cases s.answer <;> rfl

theorem busWrite_goto (bytes : List Byte) :
    busWrite bytes (s.goto op ph) = ((busWrite bytes s).1, (busWrite bytes s).2.goto op ph) := by
  unfold busWrite
  rw [State.answer_goto]
  cases s.answer <;> rfl

theorem delay_goto : delay (s.goto op ph) = ((delay s).1, (delay s).2.goto op ph) := by
  unfold delay
  rw [State.answer_goto]
  cases s.answer <;> rfl

theorem resume_goto {α : Type} (y : Yield α) (onOk : α → Phase) (onErr : Kind → Phase) :
    resume op (y, s.goto op ph) onOk onErr = resume op (y, s) onOk onErr := by
  cases y <;> rfl

end

section
variable {s : State} {op : Op} {start : Phase}

/-- A position whose advance is one line write. -/
theorem Simulates.pinWrite {l : Line} {v : Level} {onOk : Phase} {onErr : Kind → Phase}
    (h : tickAt op start (s.goto op start) = branch op (pinWrite l v (s.goto op start)) onOk onErr) :
    Simulates op start (pinWrite l v) (fun _ => onOk) onErr s := by
  refine Simulates.of_tick (h.trans ?_)
  rw [branch_eq_resume, pinWrite_goto, resume_goto]

/-! The framed transaction (R140, R141). -/

theorem State.frameInstr_congr {s t : State} (hop : t.operands = s.operands) (hfb : t.fb = s.fb) (f : FramePos) :
    t.frameInstr f = s.frameInstr f := by
  cases f <;> simp [State.frameInstr, hop, hfb]

theorem pinWrite_frameInstr (l : Line) (v : Level) (s : State) (f : FramePos) :
    (pinWrite l v s).2.frameInstr f = s.frameInstr f := by
  rcases pinWrite_cases l v s with h | h <;> rw [h] <;> exact State.frameInstr_congr rfl rfl f

/-- The de-asserting write ends a transaction with the error of its try part, or with its own. -/
theorem release_reaches (f : FramePos) (s : State) (raised : Option Kind) :
    Reaches (s.goto op (.frame f (.release raised)))
      (resume op (match raised with
        | some k => .err k
        | none => (pinWrite .cs .high s).1, (pinWrite .cs .high s).2) (fun _ => f.next) errPhase) := by
  refine ⟨1, ?_⟩
  change tickFrame op (s.goto op (.frame f (.release raised))) f (.release raised) = _
  cases raised with
  | none =>
    rw [tickFrame, branch_eq_resume, pinWrite_goto, resume_goto]
  | some k =>
    rw [tickFrame, branch_eq_resume, pinWrite_goto, resume_goto]
    cases (pinWrite .cs .high s).1 <;> rfl

theorem transaction_simulates {f : FramePos} {mode : Level} {bytes : List Byte} (hmode : (s.frameInstr f).mode = mode)
    (hbytes : encode (s.frameInstr f) = bytes) :
    Reaches (tick (s.goto op (frameStart f))) (resume op (transaction mode bytes s) (fun _ => f.next) errPhase) := by
  have hassert : tick (s.goto op (frameStart f)) =
      resume op (pinWrite .cs .low s) (fun _ => .frame f .setMode) errPhase := by
    change branch op (pinWrite .cs .low (s.goto op (frameStart f))) (.frame f .setMode) errPhase = _
    rw [branch_eq_resume, pinWrite_goto, resume_goto]
  have hinstr1 := pinWrite_frameInstr .cs .low s f
  rw [hassert]
  unfold transaction transactionBody
  cases h1 : pinWrite .cs .low s with
  | mk y1 s1 =>
    cases y1 with
    | err k => exact Reaches.refl _
    | ok _ =>
      rw [h1] at hinstr1
      have hset : tick (s1.goto op (.frame f .setMode)) =
          resume op (pinWrite .dc mode s1) (fun _ => .frame f .send) (fun k => .frame f (.release (some k))) := by
        change branch op (pinWrite .dc (s1.frameInstr f).mode (s1.goto op (.frame f .setMode))) (.frame f .send) _ = _
        rw [branch_eq_resume, pinWrite_goto, resume_goto, hinstr1, hmode]
      have hinstr2 := pinWrite_frameInstr .dc mode s1 f
      refine Reaches.of_tick ?_
      rw [resume, hset]
      simp only
      cases h2 : pinWrite .dc mode s1 with
      | mk y2 s2 =>
        cases y2 with
        | err k =>
          rw [andThen_of_err h2]
          exact release_reaches f s2 (some k)
        | ok _ =>
          rw [h2] at hinstr2
          have hsend : tick (s2.goto op (.frame f .send)) =
              resume op (busWrite bytes s2) (fun _ => .frame f (.release none))
                (fun k => .frame f (.release (some k))) := by
            change branch op (busWrite (encode (s2.frameInstr f)) (s2.goto op (.frame f .send))) _ _ = _
            rw [branch_eq_resume, busWrite_goto, resume_goto, hinstr2, hinstr1, hbytes]
          refine Reaches.of_tick ?_
          rw [andThen_of_ok h2, resume, hsend]
          cases h3 : busWrite bytes s2 with
          | mk y3 s3 =>
            cases y3 with
            | err k => exact release_reaches f s3 (some k)
            | ok _ => exact release_reaches f s3 none

theorem Simulates.transaction {f : FramePos} {mode : Level} {bytes : List Byte}
    (hmode : (s.frameInstr f).mode = mode) (hbytes : encode (s.frameInstr f) = bytes) :
    Simulates op (frameStart f) (transaction mode bytes) (fun _ => f.next) errPhase s :=
  Reaches.of_tick (transaction_simulates hmode hbytes)

end

end Sys2Proof.Machine
end

section
/-! PROOF. The display operations, simulated from the accepted descriptor to the position before the response
(spec/10_state.md rule R33; spec/41_serial_command_sequencer.md rules R145 to R150; spec/43_framebuffer_compositor_xor.md
rules R190 and R195). -/

namespace Sys2Proof.Machine

variable {s : State} {op : Op}

/-- What the transactions' bytes are made of is unchanged. -/
def KeepsFrames (s t : State) : Prop := t.operands = s.operands ∧ t.fb = s.fb

theorem KeepsFrames.of_displaySide {s t : State} (h : Exchanged s t) (g : DisplaySide s t) : KeepsFrames s t := by
  obtain ⟨_, _, _, _, hop, -⟩ := h
  exact ⟨hop, g.1⟩

theorem transaction_keepsFrames (mode : Level) (bytes : List Byte) : Always KeepsFrames (transaction mode bytes) :=
  fun s => KeepsFrames.of_displaySide (transaction_exchanged mode bytes s) (transaction_displaySide mode bytes s)

theorem writeColumn_keepsFrames (a : Nat) (payload : List Byte) : Always KeepsFrames (writeColumn a payload) :=
  fun s => KeepsFrames.of_displaySide (writeColumn_exchanged a payload s) (writeColumn_displaySide a payload s)

theorem renderRow_keepsFrames (row : Nat) : Always KeepsFrames (renderRow row) :=
  fun s => KeepsFrames.of_displaySide (renderRow_exchanged row s) (renderRow_displaySide row s)

theorem Always.of_ok {α : Type} {R : State → State → Prop} {p : Proc α} (h : Always R p) {s t : State} {v : α}
    (hs : p s = (.ok v, t)) : R s t := by
  have hR := h s
  rwa [hs] at hR

/-! `WriteColumn`, at the three positions of a column. -/

theorem writeColumn_simulates {a : Nat} {payload : List Byte} {pos : ColPart → FramePos}
    (hlo : (pos .lo).next = frameStart (pos .hi)) (hhi : (pos .hi).next = frameStart (pos .data))
    (hinstr : ∀ part, s.frameInstr (pos part) = columnInstr a payload part) :
    Simulates op (frameStart (pos .lo)) (writeColumn a payload) (fun _ => (pos .data).next) errPhase s := by
  have hpart : ∀ {t : State}, KeepsFrames s t → ∀ part, t.frameInstr (pos part) = columnInstr a payload part :=
    fun ht part => (State.frameInstr_congr ht.1 ht.2 _).trans (hinstr part)
  have hcols : Simulates op (frameStart (pos .lo)) (setColumn a) (fun _ => frameStart (pos .data)) errPhase s := by
    refine Simulates.andThen (mid := fun _ => frameStart (pos .hi)) ?_ fun _ t ht => ?_
    · rw [← hlo]
      exact Simulates.transaction (by rw [hinstr]; rfl) (by rw [hinstr]; rfl)
    · have hp := hpart ((transaction_keepsFrames _ _).of_ok ht) .hi
      rw [← hhi]
      exact Simulates.transaction (by rw [hp]; rfl) (by rw [hp]; rfl)
  refine hcols.andThen fun _ t ht => ?_
  have hkeeps : Always KeepsFrames (setColumn a) :=
    Always.andThen (R := KeepsFrames) (fun h g => ⟨g.1.trans h.1, g.2.trans h.2⟩) (transaction_keepsFrames _ _)
      fun _ => transaction_keepsFrames _ _
  have hp := hpart (hkeeps.of_ok ht) .data
  exact Simulates.transaction (by rw [hp]; rfl) (by rw [hp]; rfl)

/-! `ClearBody`: the loop over the columns, then the framebuffer reset. -/

theorem columns_simulates (n : Nat) (a : Fin 64) (hn : a.val + n + 1 = 64) (s : State) :
    Simulates op (frameStart (.column a .lo)) (forEach (List.range' a.val (n + 1)) fun b => writeColumn b zeroPayload)
      (fun _ => .zeroFb) errPhase s := by
  have hcol : ∀ s, Simulates op (frameStart (.column a .lo)) (writeColumn a.val zeroPayload)
      (fun _ => (FramePos.column a .data).next) errPhase s :=
    fun s => writeColumn_simulates (pos := .column a) rfl rfl fun _ => rfl
  rw [List.range'_succ]
  induction n generalizing a s with
  | zero =>
    have hlast : (FramePos.column a .data).next = .zeroFb := by simp [FramePos.next, nextOf, show ¬ a.val + 1 < 64 by omega]
    rw [hlast] at hcol
    exact (hcol s).andThen fun _ t _ => Simulates.pureP (onOk := fun _ => .zeroFb) ()
  | succ n ih =>
    have hlt : a.val + 1 < 64 := by omega
    have hnext : (FramePos.column a .data).next = frameStart (.column ⟨a.val + 1, hlt⟩ .lo) := by
      simp [FramePos.next, nextOf, hlt]
    rw [hnext] at hcol
    refine (hcol s).andThen fun _ t _ => ?_
    rw [List.range'_succ]
    exact ih ⟨a.val + 1, hlt⟩ (by simp only; omega) t
      fun s => writeColumn_simulates (pos := .column ⟨a.val + 1, hlt⟩) rfl rfl fun _ => rfl

theorem clearBody_simulates (s : State) :
    Simulates op (frameStart (.column 0 .lo)) clearBody (fun _ => afterZero op) errPhase s := by
  have hcols := columns_simulates (op := op) 63 0 rfl s
  rw [show List.range' (0 : Fin 64).val (63 + 1) = List.range 64 from List.range_eq_range'.symm] at hcols
  exact hcols.andThen fun _ t _ => Simulates.of_tick rfl

/-! INIT. -/

theorem resetPulse_simulates (s : State) :
    Simulates .init (.resetPulse .first) resetPulse (fun _ => frameStart (.config .startLine)) errPhase s :=
  (Simulates.pinWrite (onOk := .resetPulse .fall) rfl).andThen fun _ _ _ =>
  (Simulates.pinWrite (onOk := .resetPulse .rise) rfl).andThen fun _ _ _ =>
  Simulates.pinWrite rfl

/-- A transaction whose command does not depend on the state. -/
theorem config_simulates (c : ConfigCmd) (s : State) :
    Simulates op (frameStart (.config c)) (transaction c.instr.mode (encode c.instr))
      (fun _ => (FramePos.config c).next) errPhase s := Simulates.transaction rfl rfl

theorem configBody_simulates (s : State) :
    Simulates .init (frameStart (.config .startLine)) configBody (fun _ => frameStart (.column 0 .lo)) errPhase s :=
  (config_simulates .startLine s).andThen fun _ s _ => (config_simulates .contrast s).andThen fun _ s _ =>
  (config_simulates .verticalMode s).andThen fun _ s _ => (config_simulates .osc s).andThen fun _ s _ =>
  (config_simulates .precharge s).andThen fun _ s _ => (config_simulates .vcom s).andThen fun _ s _ =>
  config_simulates .offset s

theorem initBody_simulates (s : State) : Simulates .init Op.init.first initBody okPhase errPhase s :=
  (resetPulse_simulates s).andThen fun _ s _ => (configBody_simulates s).andThen fun _ s _ =>
  (clearBody_simulates s).andThen fun _ _ _ =>
  (Simulates.transaction (f := .displayOn) rfl rfl).andThen fun _ _ _ => Simulates.pureP valueNone

/-! XOR. -/

theorem renderRow_simulates (i : Nat) (s : State) :
    Simulates op (frameStart (.row i false .lo)) (renderRow (rowOf s.operands.y i)) (fun _ => .composite (i + 1)) errPhase
      s := by
  have hcol : ∀ (second : Bool) {t : State}, KeepsFrames s t →
      Simulates op (frameStart (.row i second .lo))
        (writeColumn (rowColumn s.operands.y i second) (encodeRow s.fb (rowOf s.operands.y i)))
        (fun _ => (FramePos.row i second .data).next) errPhase t := fun second t ht =>
    writeColumn_simulates (pos := .row i second) rfl (by cases second <;> rfl)
      fun _ => State.frameInstr_congr ht.1 ht.2 _
  refine Simulates.of_eq ((hcol false ⟨rfl, rfl⟩).andThen fun _ t ht => hcol true ?_) rfl
  exact (writeColumn_keepsFrames _ _).of_ok ht

theorem xorFrom_simulates (i : Nat) (rest : List Byte) (s : State) (hrest : s.operands.sprite.drop i = rest) :
    Simulates op (.composite i) (xorFrom s.operands.x s.operands.y i rest) (fun _ => okPhase xorResult) errPhase s := by
  have hhead : s.operands.sprite[i]? = rest.head? := by rw [← hrest, List.head?_drop]
  induction rest generalizing i s with
  | nil =>
    refine Simulates.of_tick ?_
    change tickComposite op (s.goto op (.composite i)) i = _
    unfold tickComposite
    rw [State.goto_operands, hhead]
    rfl
  | cons sb rest ih =>
    have htail : s.operands.sprite.drop (i + 1) = rest := by rw [← List.tail_drop, hrest]; rfl
    have htick : tick (s.goto op (.composite i)) =
        (s.withFb (compositeByte s.fb s.operands.x (rowOf s.operands.y i) sb)).goto op
          (frameStart (.row i false .lo)) := by
      change tickComposite op (s.goto op (.composite i)) i = _
      unfold tickComposite
      rw [State.goto_operands, hhead]
      rfl
    refine Reaches.of_tick (htick ▸ ?_)
    refine (renderRow_simulates i (s.withFb _)).andThen fun _ t ht => ?_
    obtain ⟨hop, -⟩ := (renderRow_keepsFrames _).of_ok ht
    have hop' : t.operands = s.operands := hop
    have h := ih (i + 1) t (by rw [hop', htail]) (by rw [hop', ← htail, List.head?_drop])
    rwa [hop'] at h

end Sys2Proof.Machine
end

section
/-! PROOF. The keypad operations, simulated in the same way, and the agreement that spec/10_state.md rule R33 asks for
(spec/40_keypad_matrix_scanner.md rules R112 to R118): O11. -/

namespace Sys2Proof.Machine

variable {s : State} {op : Op}

/-! The loops over the four rows or columns. -/

/-- The position for the next of the four, or the one after the last. -/
def nextOr (c : Line4) (more : Line4 → Phase) (last : Phase) : Phase :=
  match nextOf c with
  | some d => more d
  | none => last

theorem nextOr_elim {c : Line4} {more : Line4 → Phase} {last : Phase} {C : Phase → Prop}
    (hmore : ∀ d, nextOf c = some d → C (more d)) (hlast : nextOf c = none → C last) : C (nextOr c more last) := by
  unfold nextOr
  cases h : nextOf c with
  | some d => exact hmore d h
  | none => exact hlast h

theorem tickPreSample_eq (r : Line4) (rows : BitVec 4) (s : State) :
    tickPreSample op s r rows = resume op (pinRead r s) (fun v =>
      nextOr r (.preSample · (rowsWith rows r v)) (afterPreSample op (rowsWith rows r v))) errPhase := by
  unfold tickPreSample nextOr
  obtain ⟨y, t⟩ := pinRead r s
  cases y with
  | err k => rfl
  | ok v => cases nextOf r <;> rfl

theorem afterSample_congr {t : State} (h : t.keymap = s.keymap) (c : Line4) (rows : BitVec 4) :
    afterSample t c rows = afterSample s c rows := by
  unfold afterSample
  rw [h]

theorem tickSample_eq (c r : Line4) (rows : BitVec 4) (s : State) :
    tickSample op s c r rows = resume op (pinRead r s) (fun v =>
      nextOr r (.sample c · (rowsWith rows r v)) (afterSample s c (rowsWith rows r v))) scanFailed := by
  have hkeymap : (pinRead r s).2.keymap = s.keymap := by
    obtain ⟨_, _, _, hk, -⟩ := pinRead_exchanged r s
    exact hk
  unfold tickSample nextOr
  cases h : pinRead r s with
  | mk y t =>
    rw [h] at hkeymap
    cases y with
    | err k => rfl
    | ok v =>
      cases nextOf r with
      | some q => rfl
      | none => exact congrArg (t.goto op) (afterSample_congr hkeymap c _)

theorem tickDeenergize_eq (c : Line4) (s : State) :
    tickDeenergize op s c =
      branch op (pinWrite (.col c) .low s) (nextOr c .deenergize (.energize 0)) scanFailed := by
  unfold tickDeenergize nextOr
  cases nextOf c <;> rfl

theorem tickBackLow_eq (c : Line4) (s : State) :
    tickBackLow op s c = branch op (pinWrite (.col c) .low s) (nextOr c .energize (toRestore .noKey)) scanFailed := by
  unfold tickBackLow nextOr
  cases nextOf c <;> rfl

/-- The position after a write of the restoration. -/
def afterRestoring (c : Line4) (e : ScanEnd) (first : Option Kind) : Phase :=
  nextOr c (.restore · e first) (afterRestore e first)

theorem tickRestore_eq (c : Line4) (e : ScanEnd) (first : Option Kind) (s : State) :
    tickRestore op s c e first = branch op (pinWrite (.col c) .high s) (afterRestoring c e first)
      (fun k => afterRestoring c e (first.or (some k))) := by
  unfold tickRestore afterRestoring nextOr
  cases nextOf c <;> rfl

/-! `ReadRows`, from the four positions of a sample. -/

theorem readRows_simulates {pos : Line4 → BitVec 4 → Phase} {done : BitVec 4 → Phase} {onErr : Kind → Phase}
    (hread : ∀ t, t.keymap = s.keymap → ∀ r rows, tickAt op (pos r rows) t =
      resume op (pinRead r t) (fun v => nextOr r (pos · (rowsWith rows r v)) (done (rowsWith rows r v))) onErr) :
    Simulates op (pos 0 0#4) readRows done onErr s := by
  have hrow : ∀ {t}, t.keymap = s.keymap → ∀ r rows, Simulates op (pos r rows) (pinRead r)
      (fun v => nextOr r (pos · (rowsWith rows r v)) (done (rowsWith rows r v))) onErr t := by
    refine fun {t} ht r rows => Simulates.of_tick ((hread (t.goto op _) ht r rows).trans ?_)
    rw [pinRead_goto, resume_goto]
  have hkeymap : ∀ {t u r v}, t.keymap = s.keymap → pinRead r t = (.ok v, u) → u.keymap = s.keymap := by
    intro t u r v ht hu
    obtain ⟨_, _, _, hk, -⟩ := (pinRead_exchanged r).of_ok hu
    exact hk.trans ht
  refine (hrow rfl 0 0#4).andThen fun v0 t0 h0 => ?_
  have k0 := hkeymap rfl h0
  refine (hrow k0 1 _).andThen fun v1 t1 h1 => ?_
  have k1 := hkeymap k0 h1
  refine (hrow k1 2 _).andThen fun v2 t2 h2 => ?_
  exact (hrow (hkeymap k1 h2) 3 _).andThen fun v3 t3 _ => Simulates.pureP (onOk := done) _

theorem preSample_simulates (s : State) :
    Simulates op (.preSample 0 0#4) readRows (afterPreSample op) errPhase s :=
  readRows_simulates (pos := .preSample) fun t _ r rows => tickPreSample_eq r rows t

theorem sample_simulates (c : Line4) (s : State) :
    Simulates op (.sample c 0 0#4) readRows (afterSample s c) scanFailed s := by
  refine readRows_simulates (pos := .sample c) fun t ht r rows => ?_
  have hdone : afterSample t c = afterSample s c := funext (afterSample_congr ht c)
  rw [← hdone]
  exact tickSample_eq c r rows t

/-! `Scan`: step 1 over the four columns, then steps 2a to 2d column by column. -/

/-- What the restoration carries of a scan. -/
def scanEnd : Yield (Option Nibble) → ScanEnd
  | .ok none => .noKey
  | .ok (some key) => .key key
  | .err k => .failed k

/-- The position after a scan that yielded a value. -/
def scanEnded (key : Option Nibble) : Phase := toRestore (scanEnd (.ok key))

theorem driveAll_simulates (s : State) :
    Simulates op (.deenergize 0) (driveAll .low) (fun _ => .energize 0) scanFailed s :=
  (Simulates.pinWrite (onOk := .deenergize 1) rfl).andThen fun _ _ _ =>
  (Simulates.pinWrite (onOk := .deenergize 2) rfl).andThen fun _ _ _ =>
  (Simulates.pinWrite (onOk := .deenergize 3) rfl).andThen fun _ _ _ =>
  (Simulates.pinWrite (onOk := .energize 0) rfl).andThen fun _ _ _ => Simulates.pureP (onOk := fun _ => .energize 0) ()

theorem delay_simulates (c : Line4) (s : State) :
    Simulates op (.settle c) delay (fun _ => .sample c 0 0#4) scanFailed s := by
  refine Simulates.of_tick ?_
  change branch op (delay (s.goto op (.settle c))) _ _ = _
  rw [branch_eq_resume, delay_goto, resume_goto]

/-- One column of the scan, given the columns after it. -/
theorem scanColumn_simulates {c : Line4} {rest : List Line4}
    (hrest : ∀ s, Simulates op (nextOr c .energize (toRestore .noKey)) (scanColumns rest) scanEnded scanFailed s)
    (s : State) : Simulates op (.energize c) (scanColumns (c :: rest)) scanEnded scanFailed s := by
  refine (Simulates.pinWrite (onOk := .settle c) rfl).andThen fun _ s1 _ => ?_
  refine (delay_simulates c s1).andThen fun _ s2 _ => ?_
  refine (sample_simulates c s2).andThen fun rows s3 h3 => ?_
  obtain ⟨_, _, _, hkeymap, -⟩ := readRows_exchanged.of_ok h3
  rw [← afterSample_congr hkeymap]
  unfold afterSample
  cases hrow : decodeOneHot rows with
  | none =>
    refine Simulates.of_eq (r := andThen (pinWrite (.col c) .low) fun _ => scanColumns rest) ?_ rfl
    exact (Simulates.pinWrite (start := .backLow c) (tickBackLow_eq c _)).andThen fun _ t _ => hrest t
  | some r =>
    refine Simulates.of_eq (r := pureP (some (Keymap.entry s3.keymap r c))) ?_ rfl
    exact Reaches.refl _

theorem scan_simulates (s : State) : Simulates op (.deenergize 0) scan scanEnded scanFailed s := by
  have hend : ∀ s, Simulates op (toRestore .noKey) (scanColumns []) scanEnded scanFailed s :=
    fun _ => Simulates.pureP (onOk := scanEnded) none
  exact (driveAll_simulates s).andThen fun _ t _ => scanColumn_simulates (c := 0)
    (scanColumn_simulates (c := 1) (scanColumn_simulates (c := 2) (scanColumn_simulates (c := 3) hend))) t

theorem resume_scan (y : Yield (Option Nibble)) (s : State) :
    resume op (y, s) scanEnded scanFailed = s.goto op (toRestore (scanEnd y)) := by
  cases y <;> rfl

/-! The restoration. -/

/-- The position after the restoration, by its first failure. -/
def restored (op : Op) (e : ScanEnd) (r : Option Kind × State) : State := r.2.goto op (afterRestore e r.1)

/-- One write of the restoration, given the writes after it. -/
theorem restoreColumn_reaches {c : Line4} {rest : List Line4} {e : ScanEnd}
    (hrest : ∀ first (s : State), Reaches (s.goto op (afterRestoring c e first)) (restored op e (restoreFrom rest first s)))
    (first : Option Kind) (s : State) :
    Reaches (s.goto op (.restore c e first)) (restored op e (restoreFrom (c :: rest) first s)) := by
  refine Reaches.of_tick ?_
  change Reaches (tickRestore op (s.goto op (.restore c e first)) c e first) _
  rw [tickRestore_eq, branch_eq_resume, pinWrite_goto, resume_goto]
  unfold restoreFrom
  cases pinWrite (.col c) .high s with
  | mk y t =>
    cases y with
    | ok _ => exact hrest first t
    | err k => exact hrest (first.or (some k)) t

theorem restore_reaches (e : ScanEnd) (s : State) :
    Reaches (s.goto op (toRestore e)) (restored op e (restore s)) :=
  restoreColumn_reaches (c := 0) (restoreColumn_reaches (c := 1) (restoreColumn_reaches (c := 2)
    (restoreColumn_reaches (c := 3) fun _ _ => Reaches.refl _))) none s

theorem resume_scanVerdict (y : Yield (Option Nibble)) (first : Option Kind) (s : State) :
    resume op (scanVerdict y first, s) okPhase errPhase = restored op (scanEnd y) (first, s) := by
  rcases y with (_ | _) | _ <;> cases first <;> rfl

theorem readKeyBody_simulates (s : State) : Simulates .readKey (.preSample 0 0#4) readKeyBody okPhase errPhase s := by
  refine (preSample_simulates s).andThen fun rows t _ => ?_
  unfold Simulates afterPreSample
  by_cases hrows : rows = 0b0000#4
  · simp only [hrows, if_true]
    exact Reaches.refl _
  · simp only [hrows, if_false, resume_scanVerdict]
    have hscan := scan_simulates (op := .readKey) t
    unfold Simulates at hscan
    rw [resume_scan] at hscan
    exact hscan.trans (restore_reaches _ _)

/-! The two views agree. -/

/-- From the position before the response one advance responds. -/
theorem respond_reaches (r : Yield (BitVec 5) × State) : Reaches (resume op r okPhase errPhase) (respond r) := by
  obtain ⟨y, t⟩ := r
  cases y <;> exact ⟨1, rfl⟩

theorem exec_eq_ticks_of_simulates {i : Instr} {o : Operands} {body : Proc (BitVec 5)}
    (hexec : exec i s = .next (respond (body (s.load o)))) (haccept : accept i s = (s.load o).goto op op.first)
    (h : Simulates op op.first body okPhase errPhase (s.load o)) : ∃ n, exec i s = .next (ticks n (accept i s)) := by
  obtain ⟨n, hn⟩ := Reaches.trans h (respond_reaches _)
  exact ⟨n, by rw [hexec, haccept, hn]⟩

/-- Settles O11: each operation's body is simulated from its first position to the one before the response. -/
theorem ticksAgreeWithExec : Obligations.TicksAgreeWithExec := by
  unfold Obligations.TicksAgreeWithExec
  intro i s hi
  cases i, hi using Instr.host_cases with
  | init => exact exec_eq_ticks_of_simulates rfl rfl (initBody_simulates _)
  | clear =>
    exact exec_eq_ticks_of_simulates (op := .clear) (body := andThen clearBody fun _ => pureP valueNone) rfl rfl
      ((clearBody_simulates _).andThen fun _ _ _ => Simulates.pureP valueNone)
  | xor x y sprite =>
    refine exec_eq_ticks_of_simulates (op := .xor) (body := andThen (xorFrom x y 0 sprite) fun _ => pureP xorResult)
      rfl rfl ?_
    exact (xorFrom_simulates 0 sprite (s.load (loadXor s.operands x y sprite)) rfl).andThen
      fun _ _ _ => Simulates.pureP xorResult
  | isAnyKeyPressed =>
    exact exec_eq_ticks_of_simulates (op := .isAnyKeyPressed)
      (body := andThen readRows fun rows => pureP (valueAny rows)) rfl rfl
      ((preSample_simulates _).andThen fun rows _ _ => Simulates.pureP (valueAny rows))
  | readKey => exact exec_eq_ticks_of_simulates (op := .readKey) rfl rfl (readKeyBody_simulates _)
  | setKeymap table => exact ⟨2, rfl⟩
  | reserved opcode => exact ⟨1, rfl⟩

end Sys2Proof.Machine
end

section
/-! PROOF. The machine's steps as advances of the sequencer, and the positions an advance comes to (spec/10_state.md rules
R21 and R33): O12, O13 and O15. -/

namespace Sys2Proof.Machine

variable {s t : State} {op : Op} {o : Operands} {ph ph' : Phase}

/-! A step of a busy block is one advance or, at the head of a transaction, the several that make it up. -/

theorem frameInstr_interface (s : State) (f : FramePos) :
    (s.frameInstr f).interface = .panelWire (s.frameInstr f).mode := by
  have hcolumn : ∀ (a : Nat) (payload : List Byte) (part : ColPart),
      (columnInstr a payload part).interface = .panelWire (columnInstr a payload part).mode := by
    intro a payload part
    cases part <;> rfl
  cases f with
  | config c => cases c <;> rfl
  | column a part => exact hcolumn _ _ part
  | displayOn => rfl
  | row i second part => exact hcolumn _ _ part

theorem endFrame_transaction (s : State) {f : FramePos} (hs : s.seq = .busy op (frameStart f)) (mode : Level)
    (bytes : List Byte) :
    wireStep (transaction mode bytes) s = resume op (transaction mode bytes s) (fun _ => f.next) errPhase := by
  have hseq : (transaction mode bytes s).2.seq = .busy op (frameStart f) := by
    obtain ⟨_, _, _, _, _, _, h, -⟩ := transaction_exchanged mode bytes s
    exact h.trans hs
  unfold wireStep State.endFrame
  rw [hseq]
  obtain ⟨y, t⟩ := transaction mode bytes s
  cases y <;> rfl

theorem step_eq_ticks (hs : s.seq = .busy op ph) (hl : phaseLegal s.operands op ph = true) :
    ∃ m, step s = .next (ticks (m + 1) s) := by
  cases hp : s.pending with
  | none => exact ⟨0, step_of_not_pending hs hl hp⟩
  | some i =>
    rw [step_of_pending hs hl hp]
    unfold State.pending at hp
    rw [hs] at hp
    split at hp
    · next op' f heq =>
      cases heq
      cases hp
      obtain ⟨m, hm⟩ := transaction_simulates (s := s) (op := op) (f := f) rfl rfl
      refine ⟨m, ?_⟩
      rw [exec_panel (frameInstr_interface s f), endFrame_transaction s hs, ← hm, frameStart, State.goto_self hs, ticks]
    · next op' cat status value heq =>
      cases heq
      cases hp
      refine ⟨0, ?_⟩
      rw [ticks, ticks, tick, hs]
      rfl
    · cases hp

/-! Legal positions. -/

/-- The sequencer may move on between two positions that an operation has together. -/
theorem phaseLegal_move (h : phaseLegal o op ph = true) (hph : ∀ cat status value, ph ≠ .respond cat status value)
    (hmove : positionLegal o op ph = true → positionLegal o op ph' = true) : phaseLegal o op ph' = true := by
  have hlegal : operandsLegal o op = true ∧ positionLegal o op ph = true := by
    cases ph with
    | respond cat status value => exact absurd rfl (hph cat status value)
    | _ => simpa [phaseLegal] using h
  unfold phaseLegal
  split
  · rfl
  · rw [hlegal.1, hmove hlegal.2]
    rfl

theorem FramePos.next_column_data (a : Fin 64) :
    (∃ b, (FramePos.column a .data).next = frameStart (.column b .lo)) ∨ (FramePos.column a .data).next = .zeroFb := by
  simp only [FramePos.next]
  cases nextOf a with
  | some b => exact .inl ⟨b, rfl⟩
  | none => exact .inr rfl

theorem phaseLegal_frame_next {f : FramePos} {x : TxStep} (h : phaseLegal o op (.frame f x) = true) :
    phaseLegal o op f.next = true := by
  have hmove : (positionLegal o op (.frame f x) = true → positionLegal o op f.next = true) →
      phaseLegal o op f.next = true := phaseLegal_move h (by simp)
  cases f with
  | config c =>
    refine hmove ?_
    cases c <;> cases op <;> simp [positionLegal, FramePos.next, ConfigCmd.next, frameStart]
  | column a part =>
    refine hmove ?_
    cases part with
    | lo => cases op <;> exact id
    | hi => cases op <;> exact id
    | data =>
      rcases FramePos.next_column_data a with ⟨b, hb⟩ | hz
      · rw [hb]
        cases op <;> exact id
      · rw [hz]
        cases op <;> exact id
  | displayOn => rfl
  | row i second part =>
    refine hmove ?_
    cases part with
    | lo => cases op <;> exact id
    | hi => cases op <;> exact id
    | data =>
      cases second with
      | false => cases op <;> exact id
      | true => cases op <;> simp [positionLegal, FramePos.next]

/-- After an exchange the operand latches are as before, so the position decides. -/
theorem resume_seqLegal {α : Type} {r : Yield α × State} {onOk : α → Phase} {onErr : Kind → Phase}
    (hop : r.2.operands = o) (hok : ∀ v, phaseLegal o op (onOk v) = true)
    (herr : ∀ k, phaseLegal o op (onErr k) = true) : (resume op r onOk onErr).seqLegal = true := by
  obtain ⟨y, t⟩ := r
  subst hop
  cases y with
  | ok v => exact hok v
  | err k => exact herr k

theorem branch_seqLegal {r : Yield Unit × State} {onOk : Phase} {onErr : Kind → Phase} (hop : r.2.operands = o)
    (hok : phaseLegal o op onOk = true) (herr : ∀ k, phaseLegal o op (onErr k) = true) :
    (branch op r onOk onErr).seqLegal = true := by
  rw [branch_eq_resume]
  exact resume_seqLegal hop (fun _ => hok) herr

theorem Exchanged.operands (h : Exchanged s t) : t.operands = s.operands := by
  obtain ⟨_, _, _, _, hop, -⟩ := h
  exact hop

theorem branch_pinWrite_seqLegal {l : Line} {v : Level} {onOk : Phase} {onErr : Kind → Phase}
    (hok : phaseLegal s.operands op onOk = true) (herr : ∀ k, phaseLegal s.operands op (onErr k) = true) :
    (branch op (pinWrite l v s) onOk onErr).seqLegal = true :=
  branch_seqLegal (pinWrite_exchanged l v s).operands hok herr

theorem tickFrame_seqLegal {f : FramePos} {x : TxStep} (h : phaseLegal s.operands op (.frame f x) = true) :
    (tickFrame op s f x).seqLegal = true := by
  have hstep : ∀ x', phaseLegal s.operands op (.frame f x') = true := fun x' =>
    phaseLegal_move h (by simp) (by cases op <;> cases f <;> exact id)
  cases x with
  | assertCs => exact branch_pinWrite_seqLegal (hstep _) fun _ => rfl
  | setMode => exact branch_pinWrite_seqLegal (hstep _) fun _ => hstep _
  | send => exact branch_seqLegal (busWrite_exchanged _ s).operands (hstep _) fun _ => hstep _
  | release raised =>
    cases raised with
    | none => exact branch_pinWrite_seqLegal (phaseLegal_frame_next h) fun _ => rfl
    | some k => exact branch_pinWrite_seqLegal rfl fun _ => rfl

theorem tickComposite_seqLegal {i : Nat} (h : phaseLegal s.operands op (.composite i) = true) :
    (tickComposite op s i).seqLegal = true := by
  unfold tickComposite
  cases hi : s.operands.sprite[i]? with
  | none => rfl
  | some sb =>
    obtain ⟨hlt, -⟩ := List.getElem?_eq_some_iff.mp hi
    have hlegal := h
    change phaseLegal s.operands op (frameStart (.row i false .lo)) = true
    refine phaseLegal_move h (by simp) fun _ => ?_
    cases op <;> simp [phaseLegal, positionLegal, operandsLegal] at hlegal
    simp only [positionLegal, frameStart, decide_eq_true_eq]
    omega

theorem tickPulse_seqLegal {p : PulseStep} (h : phaseLegal s.operands op (.resetPulse p) = true) :
    (tickPulse op s p).seqLegal = true := by
  have hstep : ∀ p', phaseLegal s.operands op (.resetPulse p') = true := fun p' =>
    phaseLegal_move h (by simp) (by cases op <;> exact id)
  cases p with
  | first => exact branch_pinWrite_seqLegal (hstep _) fun _ => rfl
  | fall => exact branch_pinWrite_seqLegal (hstep _) fun _ => rfl
  | rise =>
    exact branch_pinWrite_seqLegal (phaseLegal_move h (by simp) (by cases op <;> exact id)) fun _ => rfl

theorem phaseLegal_afterPreSample {r : Line4} {rows rows' : BitVec 4}
    (h : phaseLegal o op (.preSample r rows) = true) : phaseLegal o op (afterPreSample op rows') = true := by
  cases op with
  | readKey =>
    unfold afterPreSample
    simp only
    split
    · rfl
    · exact phaseLegal_move h (by simp) id
  | _ => rfl

/-- The positions of READ_KEY's scan and restoration. -/
def Phase.isScan : Phase → Bool
  | .deenergize _ => true
  | .energize _ => true
  | .settle _ => true
  | .sample _ _ _ => true
  | .backLow _ => true
  | .restore _ _ _ => true
  | _ => false

theorem op_eq_readKey_of_isScan (h : phaseLegal o op ph = true) (hscan : ph.isScan = true) : op = .readKey := by
  cases op with
  | readKey => rfl
  | _ => cases ph <;> simp [Phase.isScan, phaseLegal, positionLegal] at hscan h

/-- READ_KEY has all of them. -/
theorem phaseLegal_scan (h : phaseLegal o .readKey ph = true) (hscan : ph.isScan = true) (hscan' : ph'.isScan = true) :
    phaseLegal o .readKey ph' = true := by
  refine phaseLegal_move h ?_ fun _ => ?_
  · rintro cat status value rfl
    cases hscan
  · cases ph' <;> simp [Phase.isScan] at hscan' <;> rfl

theorem afterSample_isScan (s : State) (c : Line4) (rows : BitVec 4) : (afterSample s c rows).isScan = true := by
  unfold afterSample
  cases decodeOneHot rows <;> rfl

theorem phaseLegal_afterRestore (e : ScanEnd) (first : Option Kind) : phaseLegal o op (afterRestore e first) = true := by
  cases e <;> cases first <;> rfl

theorem tickScan_seqLegal (h : phaseLegal s.operands .readKey ph = true) (hscan : ph.isScan = true) :
    (tickAt .readKey ph s).seqLegal = true := by
  have hstep : ∀ ph', ph'.isScan = true → phaseLegal s.operands .readKey ph' = true := fun _ => phaseLegal_scan h hscan
  have hnext : ∀ (c : Line4) (more : Line4 → Phase) (last : Phase), (∀ d, (more d).isScan = true) →
      phaseLegal s.operands .readKey last = true → phaseLegal s.operands .readKey (nextOr c more last) = true :=
    fun c more last hmore hlast => nextOr_elim (C := fun ph' => phaseLegal s.operands .readKey ph' = true)
      (fun d _ => hstep _ (hmore d)) fun _ => hlast
  have hfailed : ∀ k, phaseLegal s.operands .readKey (scanFailed k) = true := fun _ => hstep _ rfl
  cases ph with
  | deenergize c =>
    change (tickDeenergize .readKey s c).seqLegal = true
    rw [tickDeenergize_eq]
    exact branch_pinWrite_seqLegal (hnext _ _ _ (fun _ => rfl) (hstep _ rfl)) hfailed
  | energize c => exact branch_pinWrite_seqLegal (hstep _ rfl) hfailed
  | settle c => exact branch_seqLegal (delay_exchanged s).operands (hstep _ rfl) hfailed
  | sample c r rows =>
    change (tickSample .readKey s c r rows).seqLegal = true
    rw [tickSample_eq]
    exact resume_seqLegal (pinRead_exchanged r s).operands
      (fun v => hnext _ _ _ (fun _ => rfl) (hstep _ (afterSample_isScan s c _))) hfailed
  | backLow c =>
    change (tickBackLow .readKey s c).seqLegal = true
    rw [tickBackLow_eq]
    exact branch_pinWrite_seqLegal (hnext _ _ _ (fun _ => rfl) (hstep _ rfl)) hfailed
  | restore c e first =>
    have hrestoring : ∀ first, phaseLegal s.operands .readKey (afterRestoring c e first) = true :=
      fun first => hnext _ _ _ (fun _ => rfl) (phaseLegal_afterRestore e first)
    change (tickRestore .readKey s c e first).seqLegal = true
    rw [tickRestore_eq]
    exact branch_pinWrite_seqLegal (hrestoring _) fun _ => hrestoring _
  | _ => cases hscan

theorem tickPreSample_seqLegal {r : Line4} {rows : BitVec 4} (h : phaseLegal s.operands op (.preSample r rows) = true) :
    (tickPreSample op s r rows).seqLegal = true := by
  have hsame : ∀ q rows', phaseLegal s.operands op (.preSample q rows') = true :=
    fun q rows' => phaseLegal_move h (by simp) (by cases op <;> exact id)
  rw [tickPreSample_eq]
  exact resume_seqLegal (pinRead_exchanged r s).operands
    (fun v => nextOr_elim (C := fun ph => phaseLegal s.operands op ph = true) (fun q _ => hsame q _)
      fun _ => phaseLegal_afterPreSample h) fun _ => rfl

theorem phaseLegal_afterZero (h : phaseLegal o op .zeroFb = true) : phaseLegal o op (afterZero op) = true := by
  cases op with
  | init => exact phaseLegal_move h (by simp) id
  | _ => rfl

theorem tickAt_seqLegal (h : phaseLegal s.operands op ph = true) : (tickAt op ph s).seqLegal = true := by
  by_cases hscan : ph.isScan = true
  · obtain rfl := op_eq_readKey_of_isScan h hscan
    exact tickScan_seqLegal h hscan
  · cases ph with
    | resetPulse p => exact tickPulse_seqLegal h
    | frame f x => exact tickFrame_seqLegal h
    | composite i => exact tickComposite_seqLegal h
    | zeroFb => exact phaseLegal_afterZero h
    | preSample r rows => exact tickPreSample_seqLegal h
    | loadKeymap => rfl
    | respond cat status value => rfl
    | _ => exact absurd rfl hscan

theorem tick_seqLegal (h : s.seqLegal = true) : (tick s).seqLegal = true := by
  unfold tick
  cases hs : s.seq with
  | idle => exact h
  | busy op ph =>
    unfold State.seqLegal at h
    rw [hs] at h
    exact tickAt_seqLegal h

theorem ticks_induction {P : State → Prop} (hstep : ∀ s, s.seqLegal = true → P s → P (tick s)) (n : Nat)
    (hl : s.seqLegal = true) (h : P s) : (ticks n s).seqLegal = true ∧ P (ticks n s) := by
  induction n generalizing s with
  | zero => exact ⟨hl, h⟩
  | succ n ih => exact ih (tick_seqLegal hl) (hstep s hl h)

/-! Where an accepted descriptor begins. -/

theorem accept_seqLegal {i : Instr} (hi : i.interface = .hostDescriptor) (hwf : i.wellFormed = true) (s : State) :
    (accept i s).seqLegal = true := by
  cases i, hi using Instr.host_cases with
  | xor x y sprite =>
    have hlen : sprite.length < 256 := by simpa [Instr.wellFormed] using hwf
    change (decide (0x02#8 = 0x02#8) && decide ((BitVec.ofNat 8 sprite.length).toNat = sprite.length) &&
      decide (0 ≤ (BitVec.ofNat 8 sprite.length).toNat)) = true
    simp only [BitVec.toNat_ofNat, Nat.mod_eq_of_lt hlen, decide_true, Nat.zero_le, Bool.and_self]
  | _ => rfl

theorem run_succ_of_step {M : Host.Core} {s t : M.State} {n : Nat} (h : M.step s = .next t) :
    M.run (n + 1) s = M.run n t := by
  rw [Host.Core.run, h]

/-- The machine's steps take the same way as the advances. -/
theorem run_of_ticks (k : Nat) : ∀ s : State, s.seqLegal = true → (ticks k s).seq = .idle →
    ∃ n, Host.Core.run Sys2Proof.core n s = .next (ticks k s) := by
  induction k using Nat.strong_induction_on with
  | _ k ih =>
    intro s hl hidle
    cases hs : s.seq with
    | idle => exact ⟨0, by rw [ticks_of_idle hs]; rfl⟩
    | busy op ph =>
      have hlegal := hl
      unfold State.seqLegal at hlegal
      rw [hs] at hlegal
      obtain ⟨m, hm⟩ := step_eq_ticks hs hlegal
      have hrun := fun n => run_succ_of_step (M := Sys2Proof.core) (n := n) hm
      by_cases hk : m + 1 ≤ k
      · obtain ⟨j, rfl⟩ := Nat.exists_eq_add_of_le hk
        rw [ticks_add] at hidle ⊢
        obtain ⟨n, hn⟩ := ih j (by omega) (ticks (m + 1) s)
          (ticks_induction (P := fun _ => True) (fun _ _ h => h) (m + 1) hl trivial).1 hidle
        exact ⟨n + 1, (hrun n).trans hn⟩
      · obtain ⟨j, hj⟩ := Nat.exists_eq_add_of_le (Nat.le_of_not_le hk)
        refine ⟨1, (hrun 0).trans ?_⟩
        rw [hj, ticks_add, ticks_of_idle hidle]
        rfl

/-- Settles O12: each step is some of the advances of O11, and behind the response there is nothing to advance. -/
theorem stepsAgreeWithExec : Obligations.StepsAgreeWithExec := by
  unfold Obligations.StepsAgreeWithExec
  intro i s hi hwf
  obtain ⟨k, hk⟩ := ticksAgreeWithExec i s hi
  obtain ⟨t, events, ht, hrun⟩ := exec_hostRun hi s
  have hidle : (ticks k (accept i s)).seq = .idle := by
    rw [hk] at ht
    cases ht
    exact hrun.seq
  rw [hk]
  exact run_of_ticks k _ (accept_seqLegal hi hwf s) hidle

/-- Settles O15: a whole descriptor has its operation, a part of one waits, and a busy block advances. -/
theorem stepNeverStops : Obligations.StepNeverStops := by
  unfold Obligations.StepNeverStops
  rintro s ⟨-, hl⟩
  cases hs : s.seq with
  | idle =>
    cases hd : decode .hostDescriptor s.cmdIn with
    | done i rest =>
      obtain ⟨hi, -⟩ := decodedDescriptorsAreTheirEncodings _ _ _ hd
      obtain ⟨t, -, ht, -⟩ := exec_hostRun hi { s with cmdIn := rest }
      exact ⟨t, (step_of_done hs hd).trans ht⟩
    | incomplete => exact ⟨s, step_of_incomplete hs hd⟩
    | rejected _ => exact absurd hd (decodeDescriptor_ne_rejected _ _)
  | busy op ph =>
    unfold State.seqLegal at hl
    rw [hs] at hl
    obtain ⟨m, hm⟩ := step_eq_ticks hs hl
    exact ⟨_, hm⟩

end Sys2Proof.Machine
end

section
/-! PROOF. What every step keeps: the framebuffer's form and a legal position (O13), and the levels of chip-select and of
the columns (O16; spec/10_state.md section 11, rule R34). -/

namespace Sys2Proof.Machine

variable {s t : State} {op : Op} {ph : Phase}

/-- What every advance and every accepted descriptor keep, every step keeps. -/
theorem step_preserves {P : State → Prop} (htick : ∀ s, s.seqLegal = true → P s → P (tick s))
    (haccept : ∀ i s rest, i.interface = .hostDescriptor → s.seq = .idle → P s → P (accept i { s with cmdIn := rest }))
    (hP : P s) (h : step s = .next t) : t.seqLegal = true ∧ P t := by
  cases hs : s.seq with
  | idle =>
    have hl : s.seqLegal = true := by unfold State.seqLegal; rw [hs]
    cases hd : decode .hostDescriptor s.cmdIn with
    | done i rest =>
      obtain ⟨hi, hwf, -⟩ := decodedDescriptorsAreTheirEncodings _ _ _ hd
      obtain ⟨n, hn⟩ := ticksAgreeWithExec i { s with cmdIn := rest } hi
      rw [step_of_done hs hd, hn] at h
      cases h
      exact ticks_induction htick n (accept_seqLegal hi hwf _) (haccept i s rest hi hs hP)
    | incomplete =>
      rw [step_of_incomplete hs hd] at h
      cases h
      exact ⟨hl, hP⟩
    | rejected e => exact absurd hd (decodeDescriptor_ne_rejected _ _)
  | busy op ph =>
    cases hl : phaseLegal s.operands op ph with
    | false =>
      rw [step_of_illegal hs hl] at h
      cases h
    | true =>
      have hseq : s.seqLegal = true := by unfold State.seqLegal; rw [hs]; exact hl
      obtain ⟨m, hm⟩ := step_eq_ticks hs hl
      rw [hm] at h
      cases h
      exact ticks_induction htick (m + 1) hseq hP

/-! The framebuffer's form. -/

theorem resume_fb {α : Type} (r : Yield α × State) (onOk : α → Phase) (onErr : Kind → Phase) :
    (resume op r onOk onErr).fb = r.2.fb := by
  obtain ⟨y, t⟩ := r
  cases y <;> rfl

theorem branch_fb (r : Yield Unit × State) (onOk : Phase) (onErr : Kind → Phase) :
    (branch op r onOk onErr).fb = r.2.fb := by
  rw [branch_eq_resume, resume_fb]

theorem branch_pinWrite_fb (l : Line) (v : Level) (s : State) (onOk : Phase) (onErr : Kind → Phase) :
    (branch op (pinWrite l v s) onOk onErr).fb = s.fb := by
  rw [branch_fb]
  rcases pinWrite_cases l v s with h | h <;> rw [h] <;> rfl

/-- An advance changes the framebuffer at XOR's loop head and at the framebuffer reset, nowhere else. -/
theorem tickAt_fb (hcomposite : ∀ i, ph ≠ .composite i) (hzero : ph ≠ .zeroFb) : (tickAt op ph s).fb = s.fb := by
  cases ph with
  | resetPulse p => cases p <;> exact branch_pinWrite_fb _ _ s _ _
  | frame f x =>
    cases x with
    | assertCs => exact branch_pinWrite_fb _ _ s _ _
    | setMode => exact branch_pinWrite_fb _ _ s _ _
    | send => exact (branch_fb _ _ _).trans (busWrite_displaySide _ s).1
    | release raised => cases raised <;> exact branch_pinWrite_fb _ _ s _ _
  | composite i => exact absurd rfl (hcomposite i)
  | zeroFb => exact absurd rfl hzero
  | preSample r rows =>
    change (tickPreSample op s r rows).fb = s.fb
    rw [tickPreSample_eq, resume_fb]
    exact (pinRead_keypadSide r s).1
  | deenergize c => exact (congrArg State.fb (tickDeenergize_eq c s)).trans (branch_pinWrite_fb _ _ s _ _)
  | energize c => exact branch_pinWrite_fb _ _ s _ _
  | settle c => exact (branch_fb _ _ _).trans (delay_keypadSide s).1
  | sample c r rows =>
    change (tickSample op s c r rows).fb = s.fb
    rw [tickSample_eq, resume_fb]
    exact (pinRead_keypadSide r s).1
  | backLow c => exact (congrArg State.fb (tickBackLow_eq c s)).trans (branch_pinWrite_fb _ _ s _ _)
  | restore c e first => exact (congrArg State.fb (tickRestore_eq c e first s)).trans (branch_pinWrite_fb _ _ s _ _)
  | loadKeymap => rfl
  | respond cat status value => rfl

theorem tickComposite_wf (h : Memory.wf s.fb = true) (i : Nat) : Memory.wf (tickComposite op s i).fb = true := by
  unfold tickComposite
  cases s.operands.sprite[i]? with
  | none => exact h
  | some sb => exact Memory.wf_compositeByte _ sb h (rowOf_lt _ _)

theorem tick_wf (h : Memory.wf s.fb = true) : Memory.wf (tick s).fb = true := by
  unfold tick
  cases s.seq with
  | idle => exact h
  | busy op ph =>
    by_cases hcomposite : ∃ i, ph = .composite i
    · obtain ⟨i, rfl⟩ := hcomposite
      exact tickComposite_wf h i
    · by_cases hzero : ph = .zeroFb
      · subst hzero
        rfl
      · simp only [tickAt_fb (not_exists.mp hcomposite) hzero]
        exact h

theorem accept_fb (i : Instr) (s : State) : (accept i s).fb = s.fb := by
  unfold accept
  split <;> rfl

/-- Settles O13: only XOR's update and the framebuffer reset write the framebuffer, in its form, and an advance leads from a
legal position to a legal one. -/
theorem stepKeepsInv : Obligations.StepKeepsInv := by
  unfold Obligations.StepKeepsInv
  rintro s t ⟨hwf, -⟩ h
  have hkeeps := step_preserves (P := fun s => Memory.wf s.fb = true) (fun s _ => tick_wf)
    (fun i s rest _ _ hP => (accept_fb i _).symm ▸ hP) hwf h
  exact hkeeps.symm

/-! The lines at a position (R34). -/

/-- The lines of `s` stand as they must at the position `q`. -/
def LinesAt (s : State) (q : Seq) : Prop :=
  (s.NoFailure .chipSelect → s.out.cs = csAt q) ∧ (s.NoFailure .pinWrite → colsAt s.out.cols q)

/-- After an exchange it is enough to look at its own line, and only if it did not fail. -/
theorem LinesAt.upto {q q' : Seq} {e : Event} {o : Latches} (h : LinesAt s q)
    (hcs : e.failure ≠ some .chipSelect → s.out.cs = csAt q → o.cs = csAt q')
    (hcols : e.failure ≠ some .pinWrite → colsAt s.out.cols q → colsAt o.cols q') : LinesAt (s.upto [e] o) q' :=
  ⟨fun hno => hcs (hno e List.mem_cons_self) (h.1 fun e' he => hno e' (List.mem_cons_of_mem e he)),
    fun hno => hcols (hno e List.mem_cons_self) (h.2 fun e' he => hno e' (List.mem_cons_of_mem e he))⟩

/-- The same levels will do at the second position. -/
def SameLines (op : Op) (ph ph' : Phase) : Prop :=
  csAt (.busy op ph') = csAt (.busy op ph) ∧ ∀ cols, colsAt cols (.busy op ph) → colsAt cols (.busy op ph')

theorem LinesAt.move {ph' : Phase} (h : LinesAt s (.busy op ph)) (hsame : SameLines op ph ph') :
    LinesAt s (.busy op ph') :=
  ⟨fun hno => (h.1 hno).trans hsame.1.symm, fun hno => hsame.2 _ (h.2 hno)⟩

/-- Outside the scan and the restoration all four columns are high. -/
theorem colsAt_of_not_isScan (cols : Quad Level) (op : Op) (hph : ph.isScan = false) :
    colsAt cols (.busy op ph) ↔ ∀ d, cols.get d = .high := by
  cases ph <;> simp [Phase.isScan] at hph <;> cases op <;> rfl

/-- A position of the display operations between two transactions: chip-select and the columns are high there. -/
def Between (ph : Phase) : Prop := (∀ op, csAt (.busy op ph) = .high) ∧ ph.isScan = false

theorem between_frame_next (f : FramePos) : Between f.next := by
  cases f with
  | config c => cases c <;> exact ⟨fun _ => rfl, rfl⟩
  | column a part =>
    cases part with
    | lo => exact ⟨fun _ => rfl, rfl⟩
    | hi => exact ⟨fun _ => rfl, rfl⟩
    | data => rcases FramePos.next_column_data a with ⟨b, h⟩ | h <;> rw [h] <;> exact ⟨fun _ => rfl, rfl⟩
  | displayOn => exact ⟨fun _ => rfl, rfl⟩
  | row i second part => cases second <;> cases part <;> exact ⟨fun _ => rfl, rfl⟩

section
variable {v : Level} {onOk : Phase} {onErr : Kind → Phase}

/-- The outcome of an exchange, whichever it is. -/
theorem linesInv_branch_pinWrite (l : Line)
    (hok : LinesAt (s.upto [.wrote l v] (s.out.set l v)) (.busy op onOk))
    (herr : ∀ f, LinesAt (s.upto [.writeFailed l v] (s.out.set l f)) (.busy op (onErr l.kind))) :
    (branch op (pinWrite l v s) onOk onErr).LinesInv := by
  rcases pinWrite_cases l v s with h | h <;> rw [h]
  · exact hok
  · exact herr _

/-- A move between two positions of the display. -/
theorem colsAt_move (hph : ph.isScan = false) {ph' : Phase} (hph' : ph'.isScan = false) {cols : Quad Level}
    (h : colsAt cols (.busy op ph)) : colsAt cols (.busy op ph') :=
  (colsAt_of_not_isScan cols op hph').mpr ((colsAt_of_not_isScan cols op hph).mp h)

/-- A write of chip-select. -/
theorem linesInv_branch_cs (h : LinesAt s (.busy op ph)) (hph : ph.isScan = false) (hcs : csAt (.busy op onOk) = v)
    (hok : onOk.isScan = false) (herr : ∀ k, (onErr k).isScan = false) :
    (branch op (pinWrite .cs v s) onOk onErr).LinesInv :=
  linesInv_branch_pinWrite .cs (h.upto (fun _ _ => hcs.symm) fun _ => colsAt_move hph hok)
    fun _ => h.upto (fun hno => absurd rfl hno) fun _ => colsAt_move hph (herr _)

/-- A write of mode-select or of the reset line. -/
theorem linesInv_branch_control {l : Line} (hl : l = .dc ∨ l = .rst) (h : LinesAt s (.busy op ph)) (hph : ph.isScan = false)
    (hcs : csAt (.busy op onOk) = csAt (.busy op ph)) (hcsErr : ∀ k, csAt (.busy op (onErr k)) = csAt (.busy op ph))
    (hok : onOk.isScan = false) (herr : ∀ k, (onErr k).isScan = false) :
    (branch op (pinWrite l v s) onOk onErr).LinesInv := by
  refine linesInv_branch_pinWrite l (h.upto (fun _ hs => ?_) fun _ hs => ?_)
    fun f => h.upto (fun _ hs => ?_) fun _ hs => ?_ <;> rcases hl with rfl | rfl
  · exact hs.trans hcs.symm
  · exact hs.trans hcs.symm
  · exact colsAt_move hph hok hs
  · exact colsAt_move hph hok hs
  · exact hs.trans (hcsErr _).symm
  · exact hs.trans (hcsErr _).symm
  · exact colsAt_move hph (herr _) hs
  · exact colsAt_move hph (herr _) hs

/-- A write of a column, outside the transactions. -/
theorem linesInv_branch_col {c : Line4} (h : LinesAt s (.busy op ph)) (hcs : csAt (.busy op ph) = .high)
    (hok : csAt (.busy op onOk) = .high) (herr : ∀ k, csAt (.busy op (onErr k)) = .high)
    (hcols : ∀ cols, colsAt cols (.busy op ph) → colsAt (cols.set c v) (.busy op onOk)) :
    (branch op (pinWrite (.col c) v s) onOk onErr).LinesInv :=
  linesInv_branch_pinWrite (.col c) (h.upto (fun _ hs => hs.trans (hcs.trans hok.symm)) fun _ => hcols _)
    fun _ => h.upto (fun _ hs => hs.trans (hcs.trans (herr _).symm)) fun hno => absurd rfl hno

/-- An exchange that writes no line. -/
theorem linesInv_resume {α : Type} {r : Yield α × State} {e : Event} {y : Yield α} {onOk : α → Phase}
    (hr : r = (y, s.upto [e] s.out)) (h : LinesAt s (.busy op ph))
    (hok : ∀ v, SameLines op ph (onOk v)) (herr : ∀ k, SameLines op ph (onErr k)) :
    (resume op r onOk onErr).LinesInv := by
  have hstay : ∀ {ph'}, SameLines op ph ph' → LinesAt (s.upto [e] s.out) (.busy op ph') :=
    fun hsame => (h.move hsame).upto (fun _ hs => hs) fun _ hs => hs
  subst hr
  cases y with
  | ok v => exact hstay (hok v)
  | err k => exact hstay (herr k)

end

/-! One advance, position by position. -/

theorem tickPulse_linesInv {p : PulseStep} (h : LinesAt s (.busy op (.resetPulse p))) :
    (tickPulse op s p).LinesInv := by
  cases p <;> exact linesInv_branch_control (.inr rfl) h rfl rfl (fun _ => rfl) rfl fun _ => rfl

theorem tickFrame_linesInv {f : FramePos} {x : TxStep} (h : LinesAt s (.busy op (.frame f x))) :
    (tickFrame op s f x).LinesInv := by
  cases x with
  | assertCs => exact linesInv_branch_cs h rfl rfl rfl fun _ => rfl
  | setMode => exact linesInv_branch_control (.inl rfl) h rfl rfl (fun _ => rfl) rfl fun _ => rfl
  | send =>
    change (branch op (busWrite _ s) _ _).LinesInv
    rw [branch_eq_resume]
    have hstay : ∀ raised, SameLines op (.frame f .send) (.frame f (.release raised)) :=
      fun _ => ⟨rfl, fun _ => colsAt_move rfl rfl⟩
    rcases busWrite_cases (encode (s.frameInstr f)) s with hr | hr <;>
      exact linesInv_resume hr h (fun _ => hstay _) fun _ => hstay _
  | release raised =>
    cases raised with
    | none =>
      exact linesInv_branch_cs h rfl ((between_frame_next f).1 op) (between_frame_next f).2 fun _ => rfl
    | some k => exact linesInv_branch_cs h rfl rfl rfl fun _ => rfl

theorem tickComposite_linesInv {i : Nat} (h : LinesAt s (.busy op (.composite i))) :
    (tickComposite op s i).LinesInv := by
  unfold tickComposite
  cases s.operands.sprite[i]? with
  | none => exact h.move ⟨rfl, fun _ => colsAt_move rfl rfl⟩
  | some sb => exact h.move ⟨rfl, fun _ => colsAt_move rfl rfl⟩

theorem afterZero_between (op : Op) : Between (afterZero op) := by
  cases op <;> exact ⟨fun _ => rfl, rfl⟩

/-! The columns during the scan. -/

theorem lt_of_nextOf {c d : Line4} (h : nextOf c = some d) (e : Line4) : e < d ↔ e < c ∨ e = c := by
  unfold nextOf at h
  split at h <;> cases h
  rw [Fin.lt_def, Fin.lt_def, Fin.ext_iff]
  exact Nat.lt_succ_iff_lt_or_eq

theorem lt_or_eq_of_nextOf_none {c : Line4} (h : nextOf c = none) (e : Line4) : e < c ∨ e = c := by
  unfold nextOf at h
  split at h
  · cases h
  · rw [Fin.lt_def, Fin.ext_iff]
    omega

theorem sameLines_afterPreSample (op : Op) (r : Line4) (rows rows' : BitVec 4) :
    SameLines op (.preSample r rows) (afterPreSample op rows') := by
  cases op with
  | readKey =>
    unfold afterPreSample
    simp only
    split
    · exact ⟨rfl, fun _ h => h⟩
    · exact ⟨rfl, fun _ h d => (h d).trans (if_neg (Fin.not_lt_zero d)).symm⟩
  | _ => exact ⟨rfl, fun _ h => h⟩

theorem tickPreSample_linesInv {r : Line4} {rows : BitVec 4} (h : LinesAt s (.busy op (.preSample r rows))) :
    (tickPreSample op s r rows).LinesInv := by
  rw [tickPreSample_eq]
  have hok : ∀ rows', SameLines op (.preSample r rows) (nextOr r (.preSample · rows') (afterPreSample op rows')) :=
    fun rows' => nextOr_elim (C := SameLines op (.preSample r rows)) (fun q _ => ⟨rfl, fun _ => colsAt_move rfl rfl⟩)
      fun _ => sameLines_afterPreSample op r rows rows'
  have herr : ∀ k, SameLines op (.preSample r rows) (errPhase k) := fun _ => ⟨rfl, fun _ => colsAt_move rfl rfl⟩
  rcases pinRead_cases r s with ⟨v, hr⟩ | hr <;> exact linesInv_resume hr h (fun _ => hok _) herr

/-- Where the restoration begins, nothing is asked of the columns. -/
theorem sameLines_toRestore (hph : csAt (.busy .readKey ph) = .high) (e : ScanEnd) :
    SameLines .readKey ph (toRestore e) :=
  ⟨hph.symm, fun _ _ d hd => absurd hd (Fin.not_lt_zero d)⟩

theorem sameLines_sample (c : Line4) (r q : Line4) (rows rows' : BitVec 4) :
    SameLines .readKey (.sample c r rows) (.sample c q rows') := ⟨rfl, fun _ h => h⟩

theorem sameLines_afterSample (s : State) (c r : Line4) (rows rows' : BitVec 4) :
    SameLines .readKey (.sample c r rows) (afterSample s c rows') := by
  unfold afterSample
  cases decodeOneHot rows' with
  | some r => exact sameLines_toRestore rfl _
  | none => exact ⟨rfl, fun _ h => h⟩

theorem csAt_nextOr {c : Line4} {more : Line4 → Phase} {last : Phase} (hmore : ∀ d, csAt (.busy op (more d)) = .high)
    (hlast : csAt (.busy op last) = .high) : csAt (.busy op (nextOr c more last)) = .high :=
  nextOr_elim (C := fun ph => csAt (.busy op ph) = .high) (fun d _ => hmore d) fun _ => hlast

theorem tickDeenergize_linesInv {c : Line4} (h : LinesAt s (.busy .readKey (.deenergize c))) :
    (tickDeenergize .readKey s c).LinesInv := by
  rw [tickDeenergize_eq]
  refine linesInv_branch_col h rfl (csAt_nextOr (fun _ => rfl) rfl) (fun _ => rfl) fun cols hcols => ?_
  refine nextOr_elim (C := fun ph => colsAt (cols.set c .low) (.busy .readKey ph)) (fun d hd e => ?_) fun hlast e => ?_
  · rw [Quad.get_set, hcols e]
    by_cases hec : e = c <;> simp [lt_of_nextOf hd, hec]
  · rw [Quad.get_set, hcols e]
    by_cases hec : e = c
    · exact if_pos hec
    · rw [if_neg hec, if_pos ((lt_or_eq_of_nextOf_none hlast e).resolve_right hec)]

theorem tickEnergize_linesInv {c : Line4} (h : LinesAt s (.busy .readKey (.energize c))) :
    (branch .readKey (pinWrite (.col c) .high s) (.settle c) scanFailed).LinesInv := by
  refine linesInv_branch_col h rfl rfl (fun _ => rfl) fun cols hcols e => ?_
  rw [Quad.get_set, hcols e]

theorem tickBackLow_linesInv {c : Line4} (h : LinesAt s (.busy .readKey (.backLow c))) :
    (tickBackLow .readKey s c).LinesInv := by
  rw [tickBackLow_eq]
  refine linesInv_branch_col h rfl (csAt_nextOr (fun _ => rfl) rfl) (fun _ => rfl) fun cols hcols => ?_
  refine nextOr_elim (C := fun ph => colsAt (cols.set c .low) (.busy .readKey ph)) (fun d _ e => ?_) fun _ e he => ?_
  · rw [Quad.get_set, hcols e]
    split_ifs <;> rfl
  · exact absurd he (Fin.not_lt_zero e)

theorem csAt_afterRestoring (c : Line4) (e : ScanEnd) (first : Option Kind) :
    csAt (.busy op (afterRestoring c e first)) = .high :=
  csAt_nextOr (fun _ => rfl) (by cases e <;> cases first <;> rfl)

theorem tickRestore_linesInv {c : Line4} {e : ScanEnd} {first : Option Kind}
    (h : LinesAt s (.busy .readKey (.restore c e first))) : (tickRestore .readKey s c e first).LinesInv := by
  rw [tickRestore_eq]
  refine linesInv_branch_col h rfl (csAt_afterRestoring c e _) (fun _ => csAt_afterRestoring c e _) fun cols hcols => ?_
  refine nextOr_elim (C := fun ph => colsAt (cols.set c .high) (.busy .readKey ph)) (fun d hd b hb => ?_) fun hlast => ?_
  · rw [Quad.get_set]
    split_ifs with hbc
    · rfl
    · exact hcols b (((lt_of_nextOf hd b).mp hb).resolve_right hbc)
  · have hhigh : ∀ b, (cols.set c .high).get b = .high := by
      intro b
      rw [Quad.get_set]
      split_ifs with hbc
      · rfl
      · exact hcols b ((lt_or_eq_of_nextOf_none hlast b).resolve_right hbc)
    cases e <;> cases first <;> exact hhigh

theorem tickScan_linesInv (hscan : ph.isScan = true) (h : LinesAt s (.busy .readKey ph)) :
    (tickAt .readKey ph s).LinesInv := by
  have hfailed : csAt (.busy .readKey ph) = .high → ∀ k, SameLines .readKey ph (scanFailed k) :=
    fun hcs _ => sameLines_toRestore hcs _
  cases ph with
  | deenergize c => exact tickDeenergize_linesInv h
  | energize c => exact tickEnergize_linesInv h
  | settle c =>
    change (branch .readKey (delay s) _ _).LinesInv
    rw [branch_eq_resume]
    rcases delay_cases s with hr | hr <;>
      exact linesInv_resume hr h (fun _ => ⟨rfl, fun _ h => h⟩) (hfailed rfl)
  | sample c r rows =>
    change (tickSample .readKey s c r rows).LinesInv
    rw [tickSample_eq]
    have hok : ∀ rows', SameLines .readKey (.sample c r rows) (nextOr r (.sample c · rows') (afterSample s c rows')) :=
      fun rows' => nextOr_elim (C := SameLines .readKey (.sample c r rows)) (fun q _ => sameLines_sample c r q _ _)
        fun _ => sameLines_afterSample s c r rows rows'
    rcases pinRead_cases r s with ⟨v, hr⟩ | hr <;> exact linesInv_resume hr h (fun _ => hok _) (hfailed rfl)
  | backLow c => exact tickBackLow_linesInv h
  | restore c e first => exact tickRestore_linesInv h
  | _ => cases hscan

theorem tickAt_linesInv (hl : phaseLegal s.operands op ph = true) (h : LinesAt s (.busy op ph)) :
    (tickAt op ph s).LinesInv := by
  by_cases hscan : ph.isScan = true
  · obtain rfl := op_eq_readKey_of_isScan hl hscan
    exact tickScan_linesInv hscan h
  · cases ph with
    | resetPulse p => exact tickPulse_linesInv h
    | frame f x => exact tickFrame_linesInv h
    | composite i => exact tickComposite_linesInv h
    | zeroFb =>
      have hzero := afterZero_between op
      exact LinesAt.move (s := s.zeroFb) h ⟨hzero.1 op, fun _ => colsAt_move rfl hzero.2⟩
    | preSample r rows => exact tickPreSample_linesInv h
    | loadKeymap => exact LinesAt.move (s := s.setKeymap s.operands.table) h ⟨rfl, fun _ => colsAt_move rfl rfl⟩
    | respond cat status value => exact ⟨h.1, fun hno => (colsAt_of_not_isScan _ op rfl).mp (h.2 hno)⟩
    | _ => exact absurd rfl hscan

theorem tick_linesInv (hl : s.seqLegal = true) (h : s.LinesInv) : (tick s).LinesInv := by
  unfold tick
  cases hs : s.seq with
  | idle => exact h
  | busy op ph =>
    unfold State.seqLegal at hl
    unfold State.LinesInv at h
    rw [hs] at hl h
    exact tickAt_linesInv hl h

/-- An operation begins where the lines stand as in an idle block. -/
theorem accept_linesInv {i : Instr} (hi : i.interface = .hostDescriptor) (hs : s.seq = .idle) (h : s.LinesInv) :
    (accept i s).LinesInv := by
  unfold State.LinesInv at h
  rw [hs] at h
  cases i, hi using Instr.host_cases with
  | _ => exact h

/-- Settles O16: an exchange moves its line to the level of the next position or fails, and a failed chip-select or column
write ends the premise. -/
theorem stepKeepsLines : Obligations.StepKeepsLines := by
  unfold Obligations.StepKeepsLines
  intro s t hlines h
  exact (step_preserves (P := State.LinesInv) (fun _ => tick_linesInv)
    (fun i s rest hi hs hP => accept_linesInv (s := { s with cmdIn := rest }) hi hs hP) hlines h).2

end Sys2Proof.Machine
end

section
/-! PROOF. The reference panel shows the framebuffer (spec/20_memory.md rules R62 and R67): O43. -/

namespace Sys2Proof.Machine

variable {p q : Panel}

theorem Panel.replay_append (p : Panel) (es fs : List Event) : p.replay (es ++ fs) = (p.replay es).replay fs :=
  List.foldl_append

/-! A transaction: chip-select falls, the bytes arrive under the mode-select level, chip-select rises. -/

/-- The panel with a transaction open. -/
def Panel.selected (p : Panel) (mode : Level) : Panel := { p with cs := .low, dc := mode, seen := p.seen + 2 }

theorem Panel.replay_frame (p : Panel) (mode : Level) (bytes : List Byte) :
    p.replay (frameEvents mode bytes) = { (p.selected mode).bytes bytes with cs := .high, seen := p.seen + 4 } := rfl

/-- What the reference panel makes of a command. -/
def Panel.obey (p : Panel) : Instr → Panel
  | .panelColumnLow n => { p with colLo := n }
  | .panelColumnHigh n => { p with colHi := n }
  | .panelDisplayOn => { p with on := true }
  | _ => p

theorem Panel.replay_command {bytes : List Byte} {i : Instr} {rest : List Byte}
    (h : decodeFrame .low bytes = .done i rest) (p : Panel) :
    p.replay (frameEvents .low bytes) = { p.obey i with cs := .high, dc := .low, seen := p.seen + 4 } := by
  have hcommand : (p.selected .low).bytes bytes = (p.selected .low).obey i := by
    change Panel.command _ _ = _
    unfold Panel.command Panel.obey
    rw [h]
    cases i <;> rfl
  rw [Panel.replay_frame, hcommand]
  cases i <;> rfl

/-- The panel's column address. -/
def Panel.address (p : Panel) : Nat := 16 * p.colHi.toNat + p.colLo.toNat

/-- Data bytes from the page pointer on, as far as the page goes: the addressed column takes them, nothing else moves. -/
theorem Panel.foldl_dataByte (payload : List Byte) (p : Panel) (hpage : p.page < 16)
    (hlen : p.page + payload.length ≤ 16) :
    ∃ store, payload.foldl Panel.dataByte p =
        { p with store := store, page := (p.page + payload.length) % 16 } ∧
      ∀ c j, j < 16 → Memory.read store (16 * c + j) =
        if c = p.address ∧ p.page ≤ j then (payload[j - p.page]?).getD (p.byte c j) else p.byte c j := by
  induction payload generalizing p with
  | nil =>
    refine ⟨p.store, ?_, fun c j _ => ?_⟩
    · rw [List.length_nil, Nat.add_zero, Nat.mod_eq_of_lt hpage]
      rfl
    · simp only [List.getElem?_nil, Option.getD_none, ite_self]
      rfl
  | cons d rest ih =>
    rw [List.length_cons] at hlen
    have hpage' : (p.dataByte d).page = (p.page + 1) % 16 := rfl
    obtain ⟨store, hstore, hread⟩ := ih (p.dataByte d) (Nat.mod_lt _ (by decide)) (by rw [hpage']; omega)
    refine ⟨store, ?_, fun c j hj => ?_⟩
    · rw [List.foldl_cons, hstore, hpage', List.length_cons]
      simp only [Panel.dataByte, Panel.mk.injEq, true_and, and_true]
      omega
    · have hbyte : (p.dataByte d).byte c j = if c = p.address ∧ j = p.page then d else p.byte c j := by
        unfold Panel.byte Panel.dataByte Panel.address
        rw [Memory.read]
        refine if_congr ?_ rfl rfl
        omega
      rw [hread c j hj, hbyte, hpage']
      have haddress : (p.dataByte d).address = p.address := rfl
      rw [haddress]
      by_cases hc : c = p.address
      · simp only [hc, true_and]
        by_cases hwrap : p.page + 1 = 16
        · obtain rfl : rest = [] := List.eq_nil_of_length_eq_zero (by omega)
          rcases Nat.lt_or_ge j p.page with hlt | hge
          · simp [Nat.not_le.mpr hlt, Nat.ne_of_lt hlt]
          · obtain rfl : j = p.page := by omega
            simp
        · rw [Nat.mod_eq_of_lt (by omega : p.page + 1 < 16)]
          rcases Nat.lt_trichotomy j p.page with hlt | rfl | hgt
          · simp [Nat.not_le.mpr hlt, Nat.ne_of_lt hlt, Nat.not_le.mpr (Nat.lt_succ_of_lt hlt)]
          · simp
          · obtain ⟨n, rfl⟩ := Nat.exists_eq_add_of_lt hgt
            have hoff : p.page + n + 1 - p.page = n + 1 := by omega
            have hoff' : p.page + n + 1 - (p.page + 1) = n := by omega
            have hnext : p.page + 1 ≤ p.page + n + 1 := by omega
            have hne : p.page + n + 1 ≠ p.page := by omega
            simp only [hnext, hne, hgt.le, hoff, hoff', if_true, if_false, List.getElem?_cons_succ]
      · simp only [hc, false_and, if_false]

/-! `WriteColumn` on a panel that stands between transactions. -/

/-- The panel is ready, its power state is `on`, and its columns are those of `f`. -/
structure Panel.Holds (p : Panel) (on : Bool) (f : Nat → List Byte) : Prop where
  ready : p.ready
  power : p.on = on
  columns : ∀ c, p.column c = f c

theorem toNat_addr {a : Nat} (ha : a < 64) : 16 * (addrHi a).toNat + (addrLo a).toNat = a := by
  unfold addrHi addrLo
  rw [BitVec.toNat_ofNat, BitVec.toNat_ofNat]
  omega

/-- Sixteen bytes from page 0 on are a whole column. -/
theorem Panel.column_of_write {store : List Host.Cell} {payload : List Byte} {a c : Nat} (hlen : payload.length = 16)
    (hq : q.store = store) (hread : ∀ j, j < 16 → Memory.read store (16 * c + j) =
      if c = a then (payload[j]?).getD (p.byte c j) else p.byte c j) :
    q.column c = if c = a then payload else p.column c := by
  subst hq
  unfold Panel.column
  by_cases hc : c = a
  · rw [if_pos hc]
    refine List.ext_getElem (by simp [hlen]) fun j hj hj' => ?_
    rw [List.getElem_map, List.getElem_range]
    refine (hread j (by omega)).trans ?_
    rw [if_pos hc, List.getElem?_eq_getElem hj', Option.getD_some]
  · rw [if_neg hc]
    refine List.map_congr_left fun j hj => (hread j (List.mem_range.mp hj)).trans ?_
    rw [if_neg hc]

theorem Panel.replay_data {payload : List Byte} (hlen : payload.length = 16) (hpage : p.page = 0) :
    (p.replay (frameEvents .high payload)).ready ∧ (p.replay (frameEvents .high payload)).on = p.on ∧
      ∀ c, (p.replay (frameEvents .high payload)).column c = if c = p.address then payload else p.column c := by
  have hzero : (p.selected .high).page = 0 := hpage
  obtain ⟨store, hfold, hread⟩ := Panel.foldl_dataByte payload (p.selected .high) (by omega) (by omega)
  have hbytes : (p.selected .high).bytes payload = payload.foldl Panel.dataByte (p.selected .high) := rfl
  rw [Panel.replay_frame, hbytes, hfold, hzero, hlen]
  refine ⟨⟨rfl, rfl⟩, rfl, fun c => Panel.column_of_write (store := store) hlen rfl fun j hj => (hread c j hj).trans ?_⟩
  simp only [hzero, Nat.zero_le, and_true, Nat.sub_zero]
  rfl

/-- Compositing into one row leaves the encodings of the others. -/
theorem encodeRow_compositeByte_of_ne {m : Memory} (hm : Memory.wf m = true) (x sb : Byte) {row r : Nat} (hrow : row < 32)
    (hr : r ≠ row) : encodeRow (compositeByte m x row sb) r = encodeRow m r := by
  refine encodeRow_congr fun b hb => ?_
  rw [fbRead_compositeByte x row sb hm hrow hb, maskByte, if_neg hr, BitVec.xor_zero]

section
variable (hw : Config.WireDistinct)
include hw

theorem Panel.replay_setColumn {a : Nat} (ha : a < 64) (p : Panel) :
    ∃ q, p.replay (frameEvents .low [Config.colLoCmd (addrLo a)] ++ frameEvents .low [Config.colHiCmd (addrHi a)]) = q ∧
      q.address = a ∧ q.page = p.page ∧ q.on = p.on ∧ q.column = p.column := by
  have hlo : decodeFrame .low [Config.colLoCmd (addrLo a)] = .done (.panelColumnLow (addrLo a)) [] :=
    decodeSimple_columnLow hw _
  have hhi : decodeFrame .low [Config.colHiCmd (addrHi a)] = .done (.panelColumnHigh (addrHi a)) [] :=
    decodeSimple_columnHigh hw _
  rw [Panel.replay_append, Panel.replay_command hlo, Panel.replay_command hhi]
  exact ⟨_, rfl, toNat_addr ha, rfl, rfl, rfl⟩

theorem Panel.holds_columnEvents {on : Bool} {f : Nat → List Byte} (h : p.Holds on f) {a : Nat} (ha : a < 64)
    {payload : List Byte} (hlen : payload.length = 16) :
    (p.replay (columnEvents payload a)).Holds on (Function.update f a payload) := by
  obtain ⟨⟨hpage, -⟩, hon, hcols⟩ := h
  obtain ⟨q, hq, haddress, hpage', hon', hcols'⟩ := Panel.replay_setColumn hw ha p
  rw [columnEvents, Panel.replay_append, hq]
  obtain ⟨hready, hon'', hcolumn⟩ := Panel.replay_data hlen (hpage'.trans hpage)
  refine ⟨hready, hon''.trans (hon'.trans hon), fun c => (hcolumn c).trans ?_⟩
  rw [haddress, hcols', hcols, Function.update_apply]

/-! The display operations. -/

theorem Panel.holds_columns {payload : List Byte} (hlen : payload.length = 16) (l : List Nat) (hl : ∀ a ∈ l, a < 64)
    {on : Bool} {f : Nat → List Byte} (h : p.Holds on f) :
    (p.replay (l.flatMap (columnEvents payload))).Holds on fun c => if c ∈ l then payload else f c := by
  induction l generalizing p f with
  | nil => exact ⟨h.ready, h.power, fun c => (h.columns c).trans (if_neg List.not_mem_nil).symm⟩
  | cons a rest ih =>
    rw [List.flatMap_cons, Panel.replay_append]
    have hcol := ih (fun b hb => hl b (List.mem_cons_of_mem a hb)) (Panel.holds_columnEvents hw h (hl a List.mem_cons_self) hlen)
    refine ⟨hcol.ready, hcol.power, fun c => (hcol.columns c).trans ?_⟩
    by_cases hrest : c ∈ rest <;> by_cases hca : c = a <;> simp [hrest, hca]

/-- A cleared panel shows the zero framebuffer. -/
theorem Panel.holds_clearEvents {on : Bool} (hready : p.ready) (hon : p.on = on) :
    (p.replay clearEvents).ready ∧ (p.replay clearEvents).on = on ∧ (p.replay clearEvents).shows [] := by
  obtain ⟨hready', hon', hcols⟩ := Panel.holds_columns hw (payload := zeroPayload) rfl (List.range 64)
    (fun a ha => List.mem_range.mp ha) (f := p.column) ⟨hready, hon, fun _ => rfl⟩
  have hzero : ∀ a, a < 64 → (p.replay clearEvents).column a = zeroPayload :=
    fun a ha => (hcols a).trans (if_pos (List.mem_range.mpr ha))
  refine ⟨hready', hon', fun r hr => ?_⟩
  rw [encodeRow_nil]
  exact ⟨hzero _ (by unfold physCol; omega), hzero _ (by unfold physCol; omega)⟩

theorem Panel.holds_rowEvents {on : Bool} {f : Nat → List Byte} (h : p.Holds on f) (row : Nat) {payload : List Byte}
    (hlen : payload.length = 16) :
    (p.replay (rowEvents row payload)).Holds on
      (Function.update (Function.update f (physCol row) payload) (physCol row + 1) payload) := by
  rw [rowEvents, Panel.replay_append]
  exact Panel.holds_columnEvents hw (Panel.holds_columnEvents hw h (by unfold physCol; omega) hlen)
    (by unfold physCol; omega) hlen

/-- Rendering the row that was written keeps the panel showing the framebuffer. -/
theorem Panel.shows_rowEvents {m : Memory} (hm : Memory.wf m = true) (x sb : Byte) {row : Nat} (hrow : row < 32)
    (hready : p.ready) (hshows : p.shows m) :
    (p.replay (rowEvents row (encodeRow (compositeByte m x row sb) row))).ready ∧
      (p.replay (rowEvents row (encodeRow (compositeByte m x row sb) row))).shows (compositeByte m x row sb) := by
  obtain ⟨hready', -, hcols⟩ := Panel.holds_rowEvents hw (on := p.on) (f := p.column) ⟨hready, rfl, fun _ => rfl⟩ row
    (encodeRow_length (compositeByte m x row sb) row)
  refine ⟨hready', fun r hr => ?_⟩
  rw [hcols, hcols, Function.update_apply, Function.update_apply, Function.update_apply, Function.update_apply]
  by_cases hrr : r = row
  · subst hrr
    simp
  · have hne : ∀ a, a = physCol r ∨ a = physCol r + 1 → a ≠ physCol row ∧ a ≠ physCol row + 1 := by
      unfold physCol
      omega
    obtain ⟨h1, h2⟩ := hne (physCol r) (.inl rfl)
    obtain ⟨h3, h4⟩ := hne (physCol r + 1) (.inr rfl)
    rw [if_neg h2, if_neg h1, if_neg h4, if_neg h3, encodeRow_compositeByte_of_ne hm x sb hrow hrr]
    exact hshows r hr

theorem Panel.shows_xorEvents (x y : Byte) (i : Nat) (sprite : List Byte) {m : Memory} (hm : Memory.wf m = true)
    (hready : p.ready) (hshows : p.shows m) :
    (p.replay (xorEvents x y i sprite m)).shows (compositeFrom x y i sprite m) ∧
      (p.replay (xorEvents x y i sprite m)).ready := by
  induction sprite generalizing p i m with
  | nil => exact ⟨hshows, hready⟩
  | cons sb rest ih =>
    rw [xorEvents, Panel.replay_append, compositeFrom]
    obtain ⟨hready', hshows'⟩ := Panel.shows_rowEvents hw hm x sb (rowOf_lt y i) hready hshows
    exact ih (i + 1) (Memory.wf_compositeByte x sb hm (rowOf_lt y i)) hready' hshows'

/-- A configuration command changes nothing the reference panel holds. -/
theorem Panel.ready_config (c : ConfigCmd) (hpage : p.page = 0) :
    (p.replay (frameEvents .low (encode c.instr))).ready := by
  have hdecode : decodeFrame .low (encode c.instr) = .done c.instr [] :=
    decodeFrame_encode hw (by cases c <;> rfl) (by cases c <;> rfl)
  have hobey : p.obey c.instr = p := by cases c <;> rfl
  rw [Panel.replay_command hdecode, hobey]
  exact ⟨hpage, rfl⟩

theorem Panel.ready_configs (l : List ConfigCmd) (hready : p.ready) :
    (p.replay (l.flatMap fun c => frameEvents .low (encode c.instr))).ready := by
  induction l generalizing p with
  | nil => exact hready
  | cons c rest ih =>
    rw [List.flatMap_cons, Panel.replay_append]
    exact ih (Panel.ready_config hw c hready.1)

theorem Panel.ready_configEvents (hpage : p.page = 0) : (p.replay configEvents).ready := by
  have hevents : configEvents = frameEvents .low (encode ConfigCmd.startLine.instr) ++
      [ConfigCmd.contrast, .verticalMode, .osc, .precharge, .vcom, .offset].flatMap
        fun c => frameEvents .low (encode c.instr) := rfl
  rw [hevents, Panel.replay_append]
  exact Panel.ready_configs hw _ (Panel.ready_config hw .startLine hpage)

/-- INIT, whatever the panel held: the pulse sets the page. -/
theorem Panel.shows_initEvents (p : Panel) :
    (p.replay initEvents).shows [] ∧ (p.replay initEvents).ready ∧ (p.replay initEvents).on = true := by
  have hon : decodeFrame .low [Config.cmdDisplayOn] = .done .panelDisplayOn [] := decodeSimple_displayOn hw
  have hpulse : (p.replay pulseEvents).page = 0 := rfl
  obtain ⟨hready, -, hshows⟩ := Panel.holds_clearEvents hw (Panel.ready_configEvents hw hpulse) rfl
  rw [initEvents, Panel.replay_append, Panel.replay_append, Panel.replay_append]
  generalize ((p.replay pulseEvents).replay configEvents).replay clearEvents = q at hready hshows ⊢
  rw [Panel.replay_command hon]
  exact ⟨hshows, ⟨hready.1, rfl⟩, rfl⟩

end

/-! The keypad operations. -/

theorem Line.col_of_not_display {l : Line} (h : ¬IsDisplayKind l.kind) : ∃ c, l = .col c := by
  cases l with
  | cs => exact absurd (.inr (.inl rfl)) h
  | dc => exact absurd (.inr (.inr (.inl rfl))) h
  | rst => exact absurd (.inr (.inr (.inr rfl))) h
  | col c => exact ⟨c, rfl⟩

/-- An exchange with the keypad does not reach the panel. -/
theorem Panel.replay_of_not_display {events : List Event} (h : ∀ e ∈ events, ¬IsDisplayKind e.kind) (p : Panel) :
    ∃ n, p.replay events = { p with seen := n } := by
  induction events generalizing p with
  | nil => exact ⟨p.seen, rfl⟩
  | cons e rest ih =>
    have he : p.event e = { p with seen := p.seen + 1 } := by
      have hkind := h e List.mem_cons_self
      cases e with
      | wrote l v =>
        obtain ⟨c, rfl⟩ := Line.col_of_not_display hkind
        rfl
      | writeFailed l v =>
        obtain ⟨c, rfl⟩ := Line.col_of_not_display hkind
        rfl
      | sent bytes => exact absurd (.inl rfl) hkind
      | sendFailed bytes => exact absurd (.inl rfl) hkind
      | _ => rfl
    obtain ⟨n, hn⟩ := ih (fun e' he' => h e' (List.mem_cons_of_mem e he')) { p with seen := p.seen + 1 }
    exact ⟨n, (congrArg (Panel.replay · rest) he).trans hn⟩

/-- Settles O43: the traces of the successful operations, column by column; the keypad's exchanges are not the panel's. -/
theorem panelShowsTheFramebuffer : Obligations.PanelShowsTheFramebuffer := by
  unfold Obligations.PanelShowsTheFramebuffer
  intro hw s t events p hev
  refine ⟨fun h ht => ?_, fun x y sprite hm h ht hready hshows => ?_, fun h ht hready => ?_,
    fun i hi ht hready hshows => ?_⟩
  · obtain ⟨t', ht', ⟨hlog, -⟩, hfb, -⟩ := exec_init_ok h
    cases ht.symm.trans ht'
    rw [hev.unique hlog, hfb]
    exact Panel.shows_initEvents hw p
  · obtain ⟨t', ht', ⟨hlog, -⟩, hfb, -⟩ := exec_xor_ok x y sprite h
    cases ht.symm.trans ht'
    rw [hev.unique hlog, hfb]
    exact Panel.shows_xorEvents hw x y 0 sprite hm hready hshows
  · obtain ⟨t', ht', ⟨hlog, -⟩, hfb, -⟩ := exec_clear_ok h
    cases ht.symm.trans ht'
    rw [hev.unique hlog, hfb]
    obtain ⟨hready', -, hshows⟩ := Panel.holds_clearEvents hw hready rfl
    exact ⟨hshows, hready'⟩
  · have hside : IsKeypadSide i := hi
    obtain ⟨events', hrun⟩ := hostRun_of_exec hside.host ht
    have hkinds : ∀ e ∈ events, ¬IsDisplayKind e.kind := by
      rw [hev.unique hrun.newEvents]
      exact fun e he hk => hside.not_mayReport hk (hrun.within.kinds e he)
    obtain ⟨n, hn⟩ := Panel.replay_of_not_display hkinds p
    rw [hn, hside.fb ht]
    exact ⟨hshows, hready⟩

end Sys2Proof.Machine
end
